-- ==== Sys2Proof/Word.lean ====
section
/-! DEFINITION. The word types, the two buffers, the eight commands and the three two-valued parameters
(spec/00_scope.md R7, R9; spec/30_encoding.md R56). -/

namespace Sys2Proof

/-- A byte is 8 bits (R9). -/
abbrev Byte := BitVec 8

/-- The width of the CRC remainder and of the trailer (R14, R50). -/
abbrev Half := BitVec 16

/-- The width of `R` and of the operand `D` (R11, R62). -/
abbrev Word := BitVec 32

/-- One operation word (R62). -/
abbrev OpWord := BitVec 48

/-- The two packet buffers, the operand `S`: `tx` is `S = 0`, `rx` is `S = 1` (R9, R62). -/
inductive Buf where
  | tx
  | rx
deriving DecidableEq, Repr

/-- The `CRC_VARIANT` strap and the `VARIANT` register (R7, R18). -/
inductive Variant where
  | A
  | B
deriving DecidableEq, Repr

/-- R34: how the three bytes of a triple make a number. -/
inductive TripleLayout where
  | segmentLe
  | bigEndian
deriving DecidableEq, Repr

/-- R169: the scale of current and power in `READ_UIP`, used by the host only. -/
inductive UipScale where
  | fine
  | coarse
deriving DecidableEq, Repr

/-- R56: the eight commands, named and not numbered. -/
inductive Command where
  | readTime
  | readPower
  | readCounters
  | readBattery
  | readTariffs
  | readTariff
  | readUip
  | readLineParams
deriving DecidableEq, Repr

/-- The commands in the order of the tests of R111. -/
def Command.all : List Command :=
  [.readTime, .readPower, .readCounters, .readBattery, .readTariffs, .readTariff, .readUip, .readLineParams]

end Sys2Proof
end

