-- ==== Sys2Proof/Config.lean ====
section
/-! DEFINITION. The configuration record of spec/00_scope.md R7, the fixed sizes of that table, and the one free value:
the content of a buffer byte that nothing has written (spec/20_memory.md R46; spec/93_implementation_defined.md U8). -/

namespace Sys2Proof

/-- R7. `OPEN` parameters are fields without a default; the CRC literals and `TRIPLE_LAYOUT` carry the spec's defaults.
`uipScale` and `settleMs` are the host's: no rule of the block reads them. -/
structure Config where
  /-- `CRC_VARIANT`, the strap read at reset (R8). -/
  crcVariant : Variant
  polyA : Half := 0xA001
  initA : Half := 0xFFFF
  polyB : Half := 0x8005
  initB : Half := 0x0000
  cmdReadTime : Byte
  cmdReadPower : Byte
  cmdReadCounters : Byte
  cmdReadBattery : Byte
  cmdReadTariffs : Byte
  cmdReadTariff : Byte
  cmdReadUip : Byte
  cmdReadLineParams : Byte
  tripleLayout : TripleLayout := .segmentLe
  uipScale : UipScale
  settleMs : Nat := 100
deriving DecidableEq, Repr

/-- `ADDR_BYTES` (R7). -/
def addrBytes : Nat := 4

/-- `ENVELOPE`: address, command and trailer (R7). -/
def envelope : Nat := 7

/-- `PAYLOAD_BASE`: payload offset `k` is byte index `5 + k` (R7, R58). -/
def payloadBase : Nat := 5

/-- `FRAME_MAX` (R7, R51). -/
def frameMax : Nat := 23

/-- The code of a command (R56). -/
def Config.code (cfg : Config) : Command → Byte
  | .readTime => cfg.cmdReadTime
  | .readPower => cfg.cmdReadPower
  | .readCounters => cfg.cmdReadCounters
  | .readBattery => cfg.cmdReadBattery
  | .readTariffs => cfg.cmdReadTariffs
  | .readTariff => cfg.cmdReadTariff
  | .readUip => cfg.cmdReadUip
  | .readLineParams => cfg.cmdReadLineParams

/-- R7: the eight codes are pairwise different. -/
abbrev Config.codesDistinct (cfg : Config) : Prop :=
  (Command.all.map cfg.code).Nodup

/-- R8, R210: the configuration after a reset with a strap. -/
def Config.strapped (cfg : Config) (strap : Variant) : Config :=
  { cfg with crcVariant := strap }

/-- The configuration `State.reset` starts from. The command codes are the example of
spec/93_implementation_defined.md G3 (PRESUMED, unsafe); the strap and `UIP_SCALE` are DESIGN CHOICE, unsafe
(notes/assumptions/2.md). No statement rests on these values but where it names `Config.standard`. -/
def Config.standard : Config where
  crcVariant := .A
  cmdReadTime := 0x21
  cmdReadPower := 0x26
  cmdReadCounters := 0x27
  cmdReadBattery := 0x29
  cmdReadTariffs := 0x2E
  cmdReadTariff := 0x60
  cmdReadUip := 0x63
  cmdReadLineParams := 0x81
  uipScale := .fine

/-- FREE VALUE (notes/assumptions/4.md): what a buffer byte holds that no operation has written since reset
(R46, U8 `any value`). -/
opaque Config.freeByte : Buf → Nat → Byte

end Sys2Proof
end

