-- ==== Sys2Proof/Machine/CrcEngine.lean ====
section
/-! DEFINITION. The CRC-16 engine as functions (spec/41_crc.md R91 to R94) and the byte order of 16- and 32-bit values
(spec/00_scope.md R9). -/

namespace Sys2Proof.Machine

/-- R9: `be16(b0, b1)`. -/
def be16 (b0 b1 : Byte) : Half := b0 ++ b1

/-- R9: `be32(b0, b1, b2, b3)`. -/
def be32 (b0 b1 b2 b3 : Byte) : Word := (b0 ++ b1 : BitVec 16) ++ (b2 ++ b3 : BitVec 16)

/-- R9: `swap16(v)`. -/
def swap16 (v : Half) : Half := (v.extractLsb' 0 8 ++ v.extractLsb' 8 8 : BitVec 16)

/-- R57: the two trailer bytes, the more significant first. -/
def halfBytes (t : Half) : List Byte := [t.extractLsb' 8 8, t.extractLsb' 0 8]

/-- R55: the four address bytes, the more significant first. -/
def wordBytes (a : Word) : List Byte :=
  [a.extractLsb' 24 8, a.extractLsb' 16 8, a.extractLsb' 8 8, a.extractLsb' 0 8]

/-- R91: one shift of the reflected register. -/
def shiftA (poly x : Half) : Half :=
  if x.getLsbD 0 then (x >>> 1) ^^^ poly else x >>> 1

/-- R92: one shift of the non-reflected register. -/
def shiftB (poly x : Half) : Half :=
  if x.getLsbD 15 then (x <<< 1) ^^^ poly else x <<< 1

/-- `repeat n times`. -/
def times : Nat → (Half → Half) → Half → Half
  | 0, _, x => x
  | n + 1, f, x => times n f (f x)

/-- R91: `updA(acc, b)`. -/
def updA (poly acc : Half) (b : Byte) : Half :=
  times 8 (shiftA poly) (acc ^^^ b.setWidth 16)

/-- R92: `updB(acc, b)`. -/
def updB (poly acc : Half) (b : Byte) : Half :=
  times 8 (shiftB poly) (acc ^^^ (b.setWidth 16 <<< 8))

/-- The update step of the variant (R90). R100 speaks of this step: linear over XOR in the remainder and the byte, and
invertible in the remainder when `POLY_A[15] = 1` and `POLY_B[0] = 1`. -/
def crcStep (cfg : Config) (v : Variant) (acc : Half) (b : Byte) : Half :=
  match v with
  | .A => updA cfg.polyA acc b
  | .B => updB cfg.polyB acc b

/-- The initial value of the variant (R90). -/
def crcInit (cfg : Config) (v : Variant) : Half :=
  match v with
  | .A => cfg.initA
  | .B => cfg.initB

/-- R93: `fin(acc)`. -/
def crcFin (v : Variant) (acc : Half) : Half :=
  match v with
  | .A => swap16 acc
  | .B => acc

/-- R94: `raw(bytes)` continued from a remainder. -/
def crcRaw (cfg : Config) (v : Variant) (acc : Half) (bytes : List Byte) : Half :=
  bytes.foldl (crcStep cfg v) acc

/-- R94: `crc16(bytes)`. -/
def crc16 (cfg : Config) (v : Variant) (bytes : List Byte) : Half :=
  crcFin v (crcRaw cfg v (crcInit cfg v) bytes)

end Sys2Proof.Machine
end

