-- ==== Sys2Proof/Machine/Rom.lean ====
section
/-! DEFINITION. The reply-length ROM (spec/42_replylen.md R110). -/

namespace Sys2Proof.Machine

/-- R110: the payload bytes of a valid reply. -/
def replyPayload : Command → Nat
  | .readTime => 7
  | .readPower => 4
  | .readCounters => 16
  | .readBattery => 2
  | .readTariffs => 1
  | .readTariff => 1
  | .readUip => 7
  | .readLineParams => 10

/-- R111: the command a code stands for, tested in the order of the table; `none` for an unsupported code (R59). -/
def commandOf (cfg : Config) (c : Byte) : Option Command :=
  Command.all.find? fun k => cfg.code k == c

end Sys2Proof.Machine
end

