-- ==== Sys2Proof/Syntax.lean ====
section
/-! DEFINITION. The instructions: one constructor per row of spec/opcode_table.json (22 operations of R63, 16 wire frames
of R52 and R53), and what stands on the host port. -/

namespace Sys2Proof

/-- Operand names follow R62: `b` is the buffer select `S`, the 8-bit operand is `A`, the 32-bit operand is `D`.
A wire frame carries its address, its payload bytes and, for a reply, the trailer as received; a request's trailer is
determined by R57 and is no operand. -/
inductive Instr where
  | bcdDec (n : Byte) (v : Word)
  | bcdDec8 (x : Byte)
  | crcClr
  | crcUpd (x : Byte)
  | crcGet
  | crcFrame (b : Buf)
  | lenResolve (c : Byte)
  | frmHdr (c : Byte) (a : Word)
  | frmPay (x : Byte)
  | frmSeal
  | dfrClr
  | dfrPush (x : Byte)
  | pktCheck (b : Buf)
  | bufRd (b : Buf) (i : Byte)
  | getAddr (b : Buf)
  | getCmd (b : Buf)
  | getCrc (b : Buf)
  | getB (b : Buf) (k : Byte)
  | getH (b : Buf) (k : Byte)
  | getT (b : Buf) (k : Byte)
  | getW (b : Buf) (k : Byte)
  | getDt (b : Buf) (k : Byte)
  | frameReqReadTime (a : Word)
  | frameRepReadTime (a : Word) (p : List Byte) (t : Half)
  | frameReqReadPower (a : Word)
  | frameRepReadPower (a : Word) (p : List Byte) (t : Half)
  | frameReqReadCounters (a : Word)
  | frameRepReadCounters (a : Word) (p : List Byte) (t : Half)
  | frameReqReadBattery (a : Word)
  | frameRepReadBattery (a : Word) (p : List Byte) (t : Half)
  | frameReqReadTariffs (a : Word)
  | frameRepReadTariffs (a : Word) (p : List Byte) (t : Half)
  | frameReqReadTariff (a : Word)
  | frameRepReadTariff (a : Word) (p : List Byte) (t : Half)
  | frameReqReadUip (a : Word)
  | frameRepReadUip (a : Word) (p : List Byte) (t : Half)
  | frameReqReadLineParams (a : Word)
  | frameRepReadLineParams (a : Word) (p : List Byte) (t : Half)
deriving DecidableEq, Repr

/-- The request frame of a command (R52). -/
def Instr.request (c : Command) (a : Word) : Instr :=
  match c with
  | .readTime => .frameReqReadTime a
  | .readPower => .frameReqReadPower a
  | .readCounters => .frameReqReadCounters a
  | .readBattery => .frameReqReadBattery a
  | .readTariffs => .frameReqReadTariffs a
  | .readTariff => .frameReqReadTariff a
  | .readUip => .frameReqReadUip a
  | .readLineParams => .frameReqReadLineParams a

/-- The reply frame to a command (R53). -/
def Instr.reply (c : Command) (a : Word) (p : List Byte) (t : Half) : Instr :=
  match c with
  | .readTime => .frameRepReadTime a p t
  | .readPower => .frameRepReadPower a p t
  | .readCounters => .frameRepReadCounters a p t
  | .readBattery => .frameRepReadBattery a p t
  | .readTariffs => .frameRepReadTariffs a p t
  | .readTariff => .frameRepReadTariff a p t
  | .readUip => .frameRepReadUip a p t
  | .readLineParams => .frameRepReadLineParams a p t

/-- What the host presents next at the one port (R41, R43, R210): an operation word, a whole wire frame, or the reset
event with the strap it samples. -/
inductive PortEvent where
  | word (w : OpWord)
  | frame (bytes : List Byte)
  | reset (strap : Variant)
deriving DecidableEq, Repr

/-- Why bits are no instruction. -/
inductive DecodeError where
  /-- R65: the word matches no row of R63. -/
  | illegalWord
  /-- R60: fewer than seven bytes. -/
  | frameTooShort
  /-- R59: the command byte is none of the eight codes. -/
  | unsupportedCommand
  /-- R53: neither the request's length nor the reply's length of that command. -/
  | frameLength
  /-- R52, R57: a request whose last two bytes are not its trailer. -/
  | trailerMismatch
  /-- R210: the reset event is no instruction. -/
  | resetEvent
deriving DecidableEq, Repr

end Sys2Proof
end

