-- ==== Sys2Proof/WellFormed.lean ====
section
/-! DEFINITION. Which instructions an encoding admits: a reply frame has as many payload bytes as the ROM gives its command
(R53); every other operand fits its field by its type (R62, R65). -/

namespace Sys2Proof

/-- The payload count R53 asks of a reply frame. -/
def payloadFits (c : Command) (p : List Byte) : Bool :=
  p.length == Machine.replyPayload c

/-- Whether the instruction has an encoding. A value of `A` out of range for its operation is well formed: the
operation's own rule gives the fault (R65). -/
def Instr.wellFormed : Instr → Bool
  | .bcdDec _ _ => true
  | .bcdDec8 _ => true
  | .crcClr => true
  | .crcUpd _ => true
  | .crcGet => true
  | .crcFrame _ => true
  | .lenResolve _ => true
  | .frmHdr _ _ => true
  | .frmPay _ => true
  | .frmSeal => true
  | .dfrClr => true
  | .dfrPush _ => true
  | .pktCheck _ => true
  | .bufRd _ _ => true
  | .getAddr _ => true
  | .getCmd _ => true
  | .getCrc _ => true
  | .getB _ _ => true
  | .getH _ _ => true
  | .getT _ _ => true
  | .getW _ _ => true
  | .getDt _ _ => true
  | .frameReqReadTime _ => true
  | .frameRepReadTime _ p _ => payloadFits .readTime p
  | .frameReqReadPower _ => true
  | .frameRepReadPower _ p _ => payloadFits .readPower p
  | .frameReqReadCounters _ => true
  | .frameRepReadCounters _ p _ => payloadFits .readCounters p
  | .frameReqReadBattery _ => true
  | .frameRepReadBattery _ p _ => payloadFits .readBattery p
  | .frameReqReadTariffs _ => true
  | .frameRepReadTariffs _ p _ => payloadFits .readTariffs p
  | .frameReqReadTariff _ => true
  | .frameRepReadTariff _ p _ => payloadFits .readTariff p
  | .frameReqReadUip _ => true
  | .frameRepReadUip _ p _ => payloadFits .readUip p
  | .frameReqReadLineParams _ => true
  | .frameRepReadLineParams _ p _ => payloadFits .readLineParams p

end Sys2Proof
end

