-- ==== Sys2Proof/Decode.lean ====
section
/-! DEFINITION. The decoder, total on any operation word and any byte string and rejecting by name, and after it the
encoder (spec/30_encoding.md R50 to R66). -/

namespace Sys2Proof

open Machine

/-- The fields of an operation word (R62). -/
structure OpFields where
  opsel : BitVec 5
  reserved : BitVec 2
  s : BitVec 1
  a : Byte
  d : Word
deriving DecidableEq, Repr

/-- R62: `OPSEL` is bits 47..43, the reserved field 42..41, `S` bit 40, `A` bits 39..32, `D` bits 31..0. -/
def fieldsOf (w : OpWord) : OpFields where
  opsel := w.extractLsb' 43 5
  reserved := w.extractLsb' 41 2
  s := w.extractLsb' 40 1
  a := w.extractLsb' 32 8
  d := w.extractLsb' 0 32

/-- R62: `S = 0` selects the request buffer. -/
def bufOf (s : BitVec 1) : Buf := if s = 0 then .tx else .rx

/-- R64: the instruction, if the fields it does not use are zero. -/
def decodeIf (unusedZero : Bool) (i : Instr) : Except DecodeError Instr :=
  if unusedZero then .ok i else .error .illegalWord

/-- R63 to R66: `OPSEL` alone tells the operation, and a word that matches no row is illegal. -/
def decodeWord (w : OpWord) : Except DecodeError Instr :=
  let f := fieldsOf w
  if f.reserved ≠ 0 then .error .illegalWord else
  match f.opsel.toNat with
  | 0x01 => decodeIf (f.s == 0) (.bcdDec f.a f.d)
  | 0x02 => decodeIf (f.s == 0 && f.d == 0) (.bcdDec8 f.a)
  | 0x03 => decodeIf (f.s == 0 && f.a == 0 && f.d == 0) .crcClr
  | 0x04 => decodeIf (f.s == 0 && f.d == 0) (.crcUpd f.a)
  | 0x05 => decodeIf (f.s == 0 && f.a == 0 && f.d == 0) .crcGet
  | 0x06 => decodeIf (f.a == 0 && f.d == 0) (.crcFrame (bufOf f.s))
  | 0x07 => decodeIf (f.s == 0 && f.d == 0) (.lenResolve f.a)
  | 0x08 => decodeIf (f.s == 0) (.frmHdr f.a f.d)
  | 0x09 => decodeIf (f.s == 0 && f.d == 0) (.frmPay f.a)
  | 0x0A => decodeIf (f.s == 0 && f.a == 0 && f.d == 0) .frmSeal
  | 0x0B => decodeIf (f.s == 0 && f.a == 0 && f.d == 0) .dfrClr
  | 0x0C => decodeIf (f.s == 0 && f.d == 0) (.dfrPush f.a)
  | 0x0D => decodeIf (f.a == 0 && f.d == 0) (.pktCheck (bufOf f.s))
  | 0x0E => decodeIf (f.d == 0) (.bufRd (bufOf f.s) f.a)
  | 0x0F => decodeIf (f.a == 0 && f.d == 0) (.getAddr (bufOf f.s))
  | 0x10 => decodeIf (f.a == 0 && f.d == 0) (.getCmd (bufOf f.s))
  | 0x11 => decodeIf (f.a == 0 && f.d == 0) (.getCrc (bufOf f.s))
  | 0x12 => decodeIf (f.d == 0) (.getB (bufOf f.s) f.a)
  | 0x13 => decodeIf (f.d == 0) (.getH (bufOf f.s) f.a)
  | 0x14 => decodeIf (f.d == 0) (.getT (bufOf f.s) f.a)
  | 0x15 => decodeIf (f.d == 0) (.getW (bufOf f.s) f.a)
  | 0x16 => decodeIf (f.d == 0) (.getDt (bufOf f.s) f.a)
  | _ => .error .illegalWord

/-- R50 to R53: the frame that the bytes after the command byte `c` make. Two bytes are a request's trailer, which R57
determines; a reply carries its trailer as received, right or wrong, and `PKT.CHECK` judges it later. -/
def decodeFrameBody (cfg : Config) (v : Variant) (a0 a1 a2 a3 c : Byte) (rest : List Byte) :
    Except DecodeError Instr :=
  match commandOf cfg c with
  | none => .error .unsupportedCommand
  | some cmd =>
    if rest.length = 2 then
      if rest = halfBytes (crc16 cfg v [a0, a1, a2, a3, c]) then .ok (.request cmd (be32 a0 a1 a2 a3))
      else .error .trailerMismatch
    else if rest.length = replyPayload cmd + 2 then
      .ok (.reply cmd (be32 a0 a1 a2 a3) (rest.take (replyPayload cmd))
        (be16 (rest.getD (replyPayload cmd) 0) (rest.getD (replyPayload cmd + 1) 0)))
    else .error .frameLength

/-- R39, R50: address at indexes 0 to 3, command at index 4; fewer than seven bytes are no frame (R60). -/
def decodeFrame (cfg : Config) (v : Variant) : List Byte → Except DecodeError Instr
  | a0 :: a1 :: a2 :: a3 :: c :: t1 :: t2 :: rest => decodeFrameBody cfg v a0 a1 a2 a3 c (t1 :: t2 :: rest)
  | _ => .error .frameTooShort

/-- The instruction a port event stands for, under the device profile and the CRC variant. -/
def decode (cfg : Config) (v : Variant) : PortEvent → Except DecodeError Instr
  | .word w => decodeWord w
  | .frame bytes => decodeFrame cfg v bytes
  | .reset _ => .error .resetEvent

/-- `n` bytes of a number, the most significant first: the table writes a wire frame with its first byte at the left
(R50). -/
def bytesOfNat : Nat → Nat → List Byte
  | 0, _ => []
  | n + 1, w => BitVec.ofNat 8 (w / 256 ^ n) :: bytesOfNat n w

/-- The port event whose bits are `w`, numbered as spec/opcode_table.json numbers them: up to 48 bits are an operation
word, more are a wire frame (notes/assumptions/6.md). -/
def eventOfBits (nbits w : Nat) : PortEvent :=
  if nbits ≤ 48 then .word (BitVec.ofNat 48 w) else .frame (bytesOfNat ((nbits + 7) / 8) w)

/-- The instruction the decoder reads from the bits of a table row, under `Config.standard`. -/
def decodeTableWord (nbits w : Nat) : Option Instr :=
  match decode Config.standard Config.standard.crcVariant (eventOfBits nbits w) with
  | .ok i => some i
  | .error _ => none

/-- R62: an operation word from its fields, the reserved bits zero. -/
def opWord (opsel : BitVec 5) (s : BitVec 1) (a : Byte) (d : Word) : OpWord :=
  ((((opsel ++ (0 : BitVec 2)) ++ s) ++ a) ++ d : BitVec (5 + 2 + 1 + 8 + 32))

/-- R62: the buffer select bit. -/
def selBit : Buf → BitVec 1
  | .tx => 0
  | .rx => 1

/-- R52, R57: the seven bytes of a request frame. -/
def requestBytes (cfg : Config) (v : Variant) (cmd : Command) (a : Word) : List Byte :=
  let header := wordBytes a ++ [cfg.code cmd]
  header ++ halfBytes (crc16 cfg v header)

/-- R53: the bytes of a reply frame. -/
def replyBytes (cfg : Config) (cmd : Command) (a : Word) (p : List Byte) (t : Half) : List Byte :=
  wordBytes a ++ [cfg.code cmd] ++ p ++ halfBytes t

/-- The encoding of an instruction (R62 to R64, R50 to R53). -/
def encode (cfg : Config) (v : Variant) : Instr → PortEvent
  | .bcdDec n x => .word (opWord 0x01 0 n x)
  | .bcdDec8 x => .word (opWord 0x02 0 x 0)
  | .crcClr => .word (opWord 0x03 0 0 0)
  | .crcUpd x => .word (opWord 0x04 0 x 0)
  | .crcGet => .word (opWord 0x05 0 0 0)
  | .crcFrame b => .word (opWord 0x06 (selBit b) 0 0)
  | .lenResolve c => .word (opWord 0x07 0 c 0)
  | .frmHdr c a => .word (opWord 0x08 0 c a)
  | .frmPay x => .word (opWord 0x09 0 x 0)
  | .frmSeal => .word (opWord 0x0A 0 0 0)
  | .dfrClr => .word (opWord 0x0B 0 0 0)
  | .dfrPush x => .word (opWord 0x0C 0 x 0)
  | .pktCheck b => .word (opWord 0x0D (selBit b) 0 0)
  | .bufRd b i => .word (opWord 0x0E (selBit b) i 0)
  | .getAddr b => .word (opWord 0x0F (selBit b) 0 0)
  | .getCmd b => .word (opWord 0x10 (selBit b) 0 0)
  | .getCrc b => .word (opWord 0x11 (selBit b) 0 0)
  | .getB b k => .word (opWord 0x12 (selBit b) k 0)
  | .getH b k => .word (opWord 0x13 (selBit b) k 0)
  | .getT b k => .word (opWord 0x14 (selBit b) k 0)
  | .getW b k => .word (opWord 0x15 (selBit b) k 0)
  | .getDt b k => .word (opWord 0x16 (selBit b) k 0)
  | .frameReqReadTime a => .frame (requestBytes cfg v .readTime a)
  | .frameRepReadTime a p t => .frame (replyBytes cfg .readTime a p t)
  | .frameReqReadPower a => .frame (requestBytes cfg v .readPower a)
  | .frameRepReadPower a p t => .frame (replyBytes cfg .readPower a p t)
  | .frameReqReadCounters a => .frame (requestBytes cfg v .readCounters a)
  | .frameRepReadCounters a p t => .frame (replyBytes cfg .readCounters a p t)
  | .frameReqReadBattery a => .frame (requestBytes cfg v .readBattery a)
  | .frameRepReadBattery a p t => .frame (replyBytes cfg .readBattery a p t)
  | .frameReqReadTariffs a => .frame (requestBytes cfg v .readTariffs a)
  | .frameRepReadTariffs a p t => .frame (replyBytes cfg .readTariffs a p t)
  | .frameReqReadTariff a => .frame (requestBytes cfg v .readTariff a)
  | .frameRepReadTariff a p t => .frame (replyBytes cfg .readTariff a p t)
  | .frameReqReadUip a => .frame (requestBytes cfg v .readUip a)
  | .frameRepReadUip a p t => .frame (replyBytes cfg .readUip a p t)
  | .frameReqReadLineParams a => .frame (requestBytes cfg v .readLineParams a)
  | .frameRepReadLineParams a p t => .frame (replyBytes cfg .readLineParams a p t)

end Sys2Proof
end

