-- ==== Sys2Proof/Machine/BcdDecoder.lean ====
section
/-! DEFINITION. The BCD decoder as functions (spec/40_bcd.md R80, R82). -/

namespace Sys2Proof.Machine

/-- R80 `digit(v, i)`: bits `[4i+3 : 4i]`. -/
def digit (v : Word) (i : Nat) : BitVec 4 := v.extractLsb' (4 * i) 4

/-- R80 `bcd(v, n)`: the sum of `digit(v, i) * 10^i` for `i` below `n`. -/
def bcd (v : Word) : Nat → Nat
  | 0 => 0
  | n + 1 => bcd v n + (digit v n).toNat * 10 ^ n

/-- R80 `bad(v, n)`: some digit below `n` is above 9. -/
def bad (v : Word) (n : Nat) : Bool := (List.range n).any fun i => decide ((digit v i).toNat > 9)

/-- R82: the two digits of a byte. -/
def dec8 (x : Byte) : Nat := (x.extractLsb' 4 4).toNat * 10 + (x.extractLsb' 0 4).toNat

/-- R82: one of the two digits is above 9. -/
def bad8 (x : Byte) : Bool :=
  decide ((x.extractLsb' 4 4).toNat > 9) || decide ((x.extractLsb' 0 4).toNat > 9)

end Sys2Proof.Machine
end

