-- ==== Sys2Proof/Machine/Memory.lean ====
section
/-! DEFINITION. One packet buffer as bytes by index (spec/20_memory.md R30), in one canonical form. -/

namespace Sys2Proof.Machine

/-- The bytes of one buffer that have a value, by rising index. -/
abbrev Memory := List Host.Cell

/-- What an index holds: an unlisted index has no value (R46: "A model may give such bytes no value at all"). -/
def Memory.read : Memory → Nat → Option Byte
  | [], _ => none
  | (x, v) :: m, a => if x = a then some v else Memory.read m a

/-- Store one byte, keeping the indexes strictly rising. -/
def Memory.write : Memory → Nat → Byte → Memory
  | [], a, b => [(a, b)]
  | (x, v) :: m, a, b =>
    if a < x then (a, b) :: (x, v) :: m
    else if a = x then (a, b) :: m
    else (x, v) :: Memory.write m a b

/-- R9 `MemWrite`: store bytes at rising indexes. -/
def Memory.writeList (m : Memory) (a : Nat) : List Byte → Memory
  | [] => m
  | b :: bs => Memory.writeList (m.write a b) (a + 1) bs

/-- The canonical form: indexes strictly rising and inside the buffer. An unlisted index reads as no value, so no entry
can equal it. -/
abbrev Memory.wf (m : Memory) : Prop :=
  (m.map Prod.fst).Pairwise (· < ·) ∧ ∀ c ∈ m, c.1 < frameMax

end Sys2Proof.Machine
end

