-- ==== Sys2Proof/Machine/State.lean ====
section
/-! DEFINITION. The state of the block (spec/10_state.md R10), with the configuration record and the host port beside it,
its reset value (R23), and the reasons a step can stop. -/

namespace Sys2Proof.Machine

/-- R17, R181: what `ERR` holds. Codes 11 to 15 are never written, so they have no constructor (U9). -/
inductive ErrCode where
  | none
  | illegalOp
  | unsupportedCommand
  | corruptReply
  | frameTooShort
  | frameOverflow
  | fieldRange
  | bufRange
  | bcdDigit
  | bcdWidth
  | frameState
deriving DecidableEq, Repr

/-- R181: the four bits of `ERR`. -/
def ErrCode.bits : ErrCode → BitVec 4
  | .none => 0
  | .illegalOp => 1
  | .unsupportedCommand => 2
  | .corruptReply => 3
  | .frameTooShort => 4
  | .frameOverflow => 5
  | .fieldRange => 6
  | .bufRange => 7
  | .bcdDigit => 8
  | .bcdWidth => 9
  | .frameState => 10

/-- R13: the date-time result file, `DT_YEAR` 12 bits and the others 8 bits. -/
structure DateTime where
  year : BitVec 12
  mon : Byte
  day : Byte
  hour : Byte
  min : Byte
  sec : Byte
deriving DecidableEq, Repr

/-- R120: a packet is a buffer and its length; with it the buffer's flag `V[s]` (R16). `len` is 0 to `FRAME_MAX` by its
type (R10, R15). -/
structure Packet where
  bytes : Memory
  len : Fin (frameMax + 1)
  valid : Bool
deriving DecidableEq, Repr

/-- R10, every piece of state it lists: `tx` is `TXB`, `TXLEN`, `V[TX]`; `rx` is `RXB`, `RXLEN`, `V[RX]`. `cfg` and `port`
are the model's own (R21: parameters of the step): the configuration record, and the events the host presents in the
order it issues them, the head being the one presented now (notes/assumptions/1.md, 3.md). -/
structure State where
  r : Word
  dt : DateTime
  acc : Half
  tx : Packet
  rx : Packet
  isSealed : Bool
  err : ErrCode
  variant : Variant
  cfg : Config
  port : List PortEvent
deriving DecidableEq, Repr

/-- What stops the machine. The spec's own faults (R183) stop nothing: they are next states with `ERR` set. -/
inductive Fault where
  /-- A store at an index at or above `FRAME_MAX`, which R30 says does not exist. Raised by `storeBytes`, which `FRM.SEAL`
  meets only in a state that R24 rules out (unsealed with `TXLEN` above `FRAME_MAX - 2`). Safe
  (notes/assumptions/7.md). -/
  | bufferEnd
deriving DecidableEq, Repr

/-- What the model gives no meaning. -/
inductive Refusal where
  /-- An arm of `exec` that has no meaning yet. Raised by no arm now. Safe. -/
  | notModelled (mnemonic : String)
  /-- A byte string on the port that is none of the 16 wire frames (R59, R60, U11). Raised by `present`. Safe: the host
  can still push the bytes one by one with `DFR.PUSH`. -/
  | notAFrame (why : DecodeError)
deriving DecidableEq, Repr

/-- The outcome of one instruction. -/
abbrev Result := Host.Outcome State Fault Refusal

/-- A packet after reset: no byte has a value, the length is 0, the flag is clear (R23). -/
def Packet.empty : Packet where
  bytes := []
  len := 0
  valid := false

/-- R23, R210: the state after a reset under a configuration whose strap is `cfg.crcVariant`, nothing on the port. -/
def State.resetOf (cfg : Config) : State where
  r := 0
  dt := { year := 0, mon := 0, day := 0, hour := 0, min := 0, sec := 0 }
  acc := crcInit cfg cfg.crcVariant
  tx := Packet.empty
  rx := Packet.empty
  isSealed := false
  err := .none
  variant := cfg.crcVariant
  cfg := cfg
  port := []

/-- The machine right after reset, under `Config.standard`. -/
def State.reset : State := State.resetOf Config.standard

end Sys2Proof.Machine
end

