-- ==== Sys2Proof/Machine/Ops.lean ====
section
/-! DEFINITION. The named operations over registers and buffers, and the one way an error is reported: `raise` and `flag`
(spec/60_exceptions.md R183, R184). The block has no exception entry and no return (R197, R198). -/

namespace Sys2Proof.Machine

/-- Run `f` on the next state; a stop stays a stop. -/
def andThen {α β : Type} (o : Host.Outcome α Fault Refusal) (f : α → Host.Outcome β Fault Refusal) :
    Host.Outcome β Fault Refusal :=
  match o with
  | .next s => f s
  | .fault e => .fault e
  | .refused e => .refused e

/-- R9: `B(s)` with `LEN(s)` and `V[s]`. -/
def State.buf (s : State) : Buf → Packet
  | .tx => s.tx
  | .rx => s.rx

/-- R9: `LEN(s)`. -/
def State.len (s : State) (b : Buf) : Nat := (s.buf b).len.val

/-- Write `R` (R11). -/
def State.setR (s : State) (v : Word) : State := { s with r := v }

/-- Write the date-time result file (R13). -/
def State.setDt (s : State) (d : DateTime) : State := { s with dt := d }

/-- Write `ACC` (R14). -/
def State.setAcc (s : State) (v : Half) : State := { s with acc := v }

/-- Replace one packet. -/
def State.setBuf (s : State) (b : Buf) (p : Packet) : State :=
  match b with
  | .tx => { s with tx := p }
  | .rx => { s with rx := p }

/-- Write `SEALED` (R16). -/
def State.setSealed (s : State) (v : Bool) : State := { s with isSealed := v }

/-- Write `ERR` (R17). -/
def State.setErr (s : State) (e : ErrCode) : State := { s with err := e }

/-- Replace what the host presents. -/
def State.setPort (s : State) (p : List PortEvent) : State := { s with port := p }

/-- A length register's value; the operations give it only values up to `FRAME_MAX` (R12). -/
def lenOf (n : Nat) : Fin (frameMax + 1) := ⟨min n frameMax, Nat.lt_succ_of_le (Nat.min_le_right n frameMax)⟩

/-- R9: the byte `B(s)[i]`; an index that has no value reads as a free value (R46, U8). -/
def readByte (s : State) (b : Buf) (i : Nat) : Byte :=
  ((s.buf b).bytes.read i).getD (Config.freeByte b i)

/-- R9: `MemRead(s, i, n)`, lowest index first. -/
def readBytes (s : State) (b : Buf) (i n : Nat) : List Byte :=
  (List.range n).map fun j => readByte s b (i + j)

/-- R9: `MemWrite(s, i, n, bytes)`; an index at or above `FRAME_MAX` does not exist (R30). -/
def storeBytes (s : State) (b : Buf) (i : Nat) (bytes : List Byte) : Result :=
  if i + bytes.length ≤ frameMax then
    .next (s.setBuf b { s.buf b with bytes := (s.buf b).bytes.writeList i bytes })
  else .fault .bufferEnd

/-- R183: the operation is refused; nothing but `ERR` changes. -/
def raise (e : ErrCode) (s : State) : Result := .next (s.setErr e)

/-- R182: the operation completed without error. -/
def complete (s : State) : Result := .next (s.setErr .none)

/-- R184: the operation completed with the flagged outcome `e` when `bad` holds. -/
def completeFlagged (bad : Bool) (e : ErrCode) (s : State) : Result :=
  .next (s.setErr (if bad then e else .none))

/-- Run the body if the checks found no error, in the order of R195. -/
def guarded (found : Option ErrCode) (s : State) (body : Result) : Result :=
  match found with
  | some e => raise e s
  | none => body

/-- R11: an operation that returns a value writes it to `R`, zero-extended. -/
def returnValue (v : Word) (s : State) : Result := complete (s.setR v)

/-- `crc16` under the variant the block runs (R94), in a temporary (R101). -/
def State.crcOf (s : State) (bytes : List Byte) : Half := crc16 s.cfg s.variant bytes

end Sys2Proof.Machine
end

