-- ==== Sys2Proof/Machine/Operands.lean ====
section
/-! DEFINITION. The operand forms: payload fields by offset and width, the envelope fields, and the checks every accessor
begins with (spec/44_accessors.md R140 to R149; spec/20_memory.md R32, R34). -/

namespace Sys2Proof.Machine

/-- R140 `check(s)`: `FrameState` before `FrameTooShort` (R195). -/
def checkPacket (s : State) (b : Buf) : Option ErrCode :=
  if b = .tx ∧ s.isSealed = false then some .frameState
  else if s.len b < envelope then some .frameTooShort
  else none

/-- R140 `window(s, k, w)`: a field of `w` bytes at payload offset `k`; the sum is formed in integers. -/
def checkWindow (s : State) (b : Buf) (k w : Nat) : Option ErrCode :=
  match checkPacket s b with
  | some e => some e
  | none => if payloadBase + k + w > s.len b - 2 then some .fieldRange else none

/-- The payload byte at offset `k`: byte index `5 + k` (R58). -/
def payloadByte (s : State) (b : Buf) (k : Nat) : Byte := readByte s b (payloadBase + k)

/-- R145: the 16-bit big-endian field at offset `k`. -/
def payloadHalf (s : State) (b : Buf) (k : Nat) : Half :=
  be16 (payloadByte s b k) (payloadByte s b (k + 1))

/-- R34: `b2 ++ b0 ++ b1` or `b0 ++ b1 ++ b2`. -/
def tripleOf (layout : TripleLayout) (b0 b1 b2 : Byte) : BitVec 24 :=
  match layout with
  | .segmentLe => b2 ++ (b0 ++ b1 : BitVec 16)
  | .bigEndian => b0 ++ (b1 ++ b2 : BitVec 16)

/-- R148: the 24-bit field at offset `k`. -/
def payloadTriple (s : State) (b : Buf) (k : Nat) : BitVec 24 :=
  tripleOf s.cfg.tripleLayout (payloadByte s b k) (payloadByte s b (k + 1)) (payloadByte s b (k + 2))

/-- R146: the 32-bit big-endian field at offset `k`. -/
def payloadWord (s : State) (b : Buf) (k : Nat) : Word :=
  be32 (payloadByte s b k) (payloadByte s b (k + 1)) (payloadByte s b (k + 2)) (payloadByte s b (k + 3))

/-- R55: the device address of the packet. -/
def packetAddress (s : State) (b : Buf) : Word :=
  be32 (readByte s b 0) (readByte s b 1) (readByte s b 2) (readByte s b 3)

/-- R56: the command byte of the packet. -/
def packetCommand (s : State) (b : Buf) : Byte := readByte s b addrBytes

/-- R57: the stored trailer of the packet. -/
def packetTrailer (s : State) (b : Buf) : Half :=
  be16 (readByte s b (s.len b - 2)) (readByte s b (s.len b - 1))

/-- R99 `crcTrailer(p)`: the CRC recomputed over every byte before the trailer. -/
def recomputedTrailer (s : State) (b : Buf) : Half := s.crcOf (readBytes s b 0 (s.len b - 2))

end Sys2Proof.Machine
end

