-- ==== Sys2Proof/Machine/Flags.lean ====
section
/-! DEFINITION. The flags `SEALED`, `V[TX]`, `V[RX]` and the two flagged outcomes (spec/10_state.md R16;
spec/41_crc.md R99; spec/40_bcd.md R83). -/

namespace Sys2Proof.Machine

/-- R99 `isValid(p)`: the recomputed trailer equals the stored one. R100: it holds of every packet the construction path
produces and fails after any single flipped bit. -/
def packetValid (s : State) (b : Buf) : Bool := recomputedTrailer s b == packetTrailer s b

/-- R16: write `V[s]`. -/
def State.setValid (s : State) (b : Buf) (v : Bool) : State :=
  s.setBuf b { s.buf b with valid := v }

/-- Write `LEN(s)`. -/
def State.setLen (s : State) (b : Buf) (n : Nat) : State :=
  s.setBuf b { s.buf b with len := lenOf n }

/-- R16: an operation that changes a buffer or its length clears `V[s]`: the new length and the cleared flag. -/
def State.changed (s : State) (b : Buf) (n : Nat) : State := (s.setLen b n).setValid b false

/-- R149: a decoded byte of the date-time record is malformed. The weekday byte 0 is not looked at. -/
def badDateTime (x : Nat → Byte) : Bool :=
  bad8 (x 1) || bad8 (x 2) || bad8 (x 3) || bad8 (x 4) || bad8 (x 5) || bad8 (x 6)

/-- R149: hour, minute, second, day, month, year plus 2000 from bytes 1 to 6 of the record. -/
def decodeDateTime (x : Nat → Byte) : DateTime where
  hour := BitVec.ofNat 8 (dec8 (x 1))
  min := BitVec.ofNat 8 (dec8 (x 2))
  sec := BitVec.ofNat 8 (dec8 (x 3))
  day := BitVec.ofNat 8 (dec8 (x 4))
  mon := BitVec.ofNat 8 (dec8 (x 5))
  year := BitVec.ofNat 12 (dec8 (x 6) + 2000)

end Sys2Proof.Machine
end

