-- ==== Sys2Proof/Machine/Accessors.lean ====
section
/-! DEFINITION. The typed field accessors (spec/44_accessors.md R141 to R149). None of them reads `V[s]` (R150). -/

namespace Sys2Proof.Machine

/-- R141. -/
def execGetAddr (b : Buf) (s : State) : Result :=
  guarded (checkPacket s b) s (returnValue (packetAddress s b) s)

/-- R142. -/
def execGetCmd (b : Buf) (s : State) : Result :=
  guarded (checkPacket s b) s (returnValue ((packetCommand s b).setWidth 32) s)

/-- R143. -/
def execGetCrc (b : Buf) (s : State) : Result :=
  guarded (checkPacket s b) s (returnValue ((packetTrailer s b).setWidth 32) s)

/-- R144. -/
def execGetB (b : Buf) (k : Byte) (s : State) : Result :=
  guarded (checkWindow s b k.toNat 1) s (returnValue ((payloadByte s b k.toNat).setWidth 32) s)

/-- R145. -/
def execGetH (b : Buf) (k : Byte) (s : State) : Result :=
  guarded (checkWindow s b k.toNat 2) s (returnValue ((payloadHalf s b k.toNat).setWidth 32) s)

/-- R148. -/
def execGetT (b : Buf) (k : Byte) (s : State) : Result :=
  guarded (checkWindow s b k.toNat 3) s (returnValue ((payloadTriple s b k.toNat).setWidth 32) s)

/-- R146. -/
def execGetW (b : Buf) (k : Byte) (s : State) : Result :=
  guarded (checkWindow s b k.toNat 4) s (returnValue (payloadWord s b k.toNat) s)

/-- R149: writes the six `DT_*` registers and not `R`. -/
def execGetDt (b : Buf) (k : Byte) (s : State) : Result :=
  guarded (checkWindow s b k.toNat 7) s
    (completeFlagged (badDateTime fun j => payloadByte s b (k.toNat + j)) .bcdDigit
      (s.setDt (decodeDateTime fun j => payloadByte s b (k.toNat + j))))

end Sys2Proof.Machine
end

