-- ==== Sys2Proof/Machine/Bcd.lean ====
section
/-! DEFINITION. `BCD.DEC` and `BCD.DEC8` (spec/40_bcd.md R81 to R83). -/

namespace Sys2Proof.Machine

/-- R81. -/
def execBcdDec (n : Byte) (v : Word) (s : State) : Result :=
  if n.toNat > 8 then raise .bcdWidth s
  else completeFlagged (bad v n.toNat) .bcdDigit (s.setR (BitVec.ofNat 32 (bcd v n.toNat)))

/-- R82. -/
def execBcdDec8 (x : Byte) (s : State) : Result :=
  completeFlagged (bad8 x) .bcdDigit (s.setR (BitVec.ofNat 32 (dec8 x)))

end Sys2Proof.Machine
end

