-- ==== Sys2Proof/Machine/Crc.lean ====
section
/-! DEFINITION. `CRC.CLR`, `CRC.UPD`, `CRC.GET`, `CRC.FRAME` (spec/41_crc.md R95 to R98). -/

namespace Sys2Proof.Machine

/-- R95. -/
def execCrcClr (s : State) : Result := complete (s.setAcc (crcInit s.cfg s.variant))

/-- R96. -/
def execCrcUpd (x : Byte) (s : State) : Result := complete (s.setAcc (crcStep s.cfg s.variant s.acc x))

/-- R97. -/
def execCrcGet (s : State) : Result := returnValue ((crcFin s.variant s.acc).setWidth 32) s

/-- R98. -/
def execCrcFrame (b : Buf) (s : State) : Result :=
  guarded (checkPacket s b) s (returnValue ((recomputedTrailer s b).setWidth 32) s)

end Sys2Proof.Machine
end

