-- ==== Sys2Proof/Machine/Framer.lean ====
section
/-! DEFINITION. `FRM.HDR`, `FRM.PAY`, `FRM.SEAL`, `DFR.CLR`, `DFR.PUSH` (spec/43_framer.md R121 to R125). -/

namespace Sys2Proof.Machine

/-- R121: a fresh request packet of address and command. -/
def startPacket (c : Byte) (a : Word) (s : State) : Result :=
  andThen (storeBytes s .tx 0 (wordBytes a ++ [c])) fun t =>
    complete ((t.changed .tx payloadBase).setSealed false)

/-- Append one byte to a packet: `B(s)[LEN(s)]`, then the length (R122, R125). -/
def appendByte (b : Buf) (x : Byte) (s : State) : Result :=
  andThen (storeBytes s b (s.len b) [x]) fun t => complete (t.changed b (s.len b + 1))

/-- R122, R123: there is no open packet, or it is sealed. -/
def noOpenPacket (s : State) : Bool := s.isSealed || s.len .tx == 0

/-- R123: the trailer over every byte of the open packet, then the packet is sealed. -/
def sealPacket (s : State) : Result :=
  if noOpenPacket s then raise .frameState s
  else
    andThen (storeBytes s .tx (s.len .tx) (halfBytes (s.crcOf (readBytes s .tx 0 (s.len .tx))))) fun t =>
      complete ((t.changed .tx (s.len .tx + 2)).setSealed true)

/-- R124: the reply packet is empty; its bytes stay and are unreachable. -/
def clearReply (s : State) : Result := complete (s.changed .rx 0)

/-- R125: a byte that does not fit is dropped. -/
def pushReply (x : Byte) (s : State) : Result :=
  if s.len .rx = frameMax then raise .frameOverflow s else appendByte .rx x s

/-- R121. -/
def execFrmHdr (c : Byte) (a : Word) (s : State) : Result := startPacket c a s

/-- R122. -/
def execFrmPay (x : Byte) (s : State) : Result :=
  if noOpenPacket s then raise .frameState s
  else if s.len .tx ≥ frameMax - 2 then raise .frameOverflow s
  else appendByte .tx x s

/-- R123. -/
def execFrmSeal (s : State) : Result := sealPacket s

/-- R124. -/
def execDfrClr (s : State) : Result := clearReply s

/-- R125. -/
def execDfrPush (x : Byte) (s : State) : Result := pushReply x s

end Sys2Proof.Machine
end

