-- ==== Sys2Proof/Machine/Frames.lean ====
section
/-! DEFINITION. The 16 wire frames of the opcode table (spec/30_encoding.md R52, R53). A request frame is built by the
pseudo-operation `REQUEST`, a reply frame is collected by `RECV` (R68); notes/assumptions/5.md. -/

namespace Sys2Proof.Machine

/-- R68 `REQUEST cmd, addr`: `FRM.HDR cmd, addr; FRM.SEAL`. -/
def buildRequest (c : Command) (a : Word) (s : State) : Result :=
  andThen (startPacket (s.cfg.code c) a s) sealPacket

/-- `DFR.PUSH` for each byte in the order received (R219). -/
def pushAll : List Byte → State → Result
  | [], s => .next s
  | x :: xs, s => andThen (pushReply x s) (pushAll xs)

/-- R68 `RECV [b0, ..., bk-1]`: `DFR.CLR; DFR.PUSH b0; ...`. -/
def receiveBytes (bytes : List Byte) (s : State) : Result := andThen (clearReply s) (pushAll bytes)

/-- R53: the bytes of a reply to `c`, as they arrive. -/
def receiveReply (c : Command) (a : Word) (p : List Byte) (t : Half) (s : State) : Result :=
  receiveBytes (wordBytes a ++ [s.cfg.code c] ++ p ++ halfBytes t) s

/-- R52. -/
def execFrameReqReadTime (a : Word) (s : State) : Result := buildRequest .readTime a s

/-- R53, R161. -/
def execFrameRepReadTime (a : Word) (p : List Byte) (t : Half) (s : State) : Result := receiveReply .readTime a p t s

/-- R52. -/
def execFrameReqReadPower (a : Word) (s : State) : Result := buildRequest .readPower a s

/-- R53, R162. -/
def execFrameRepReadPower (a : Word) (p : List Byte) (t : Half) (s : State) : Result := receiveReply .readPower a p t s

/-- R52. -/
def execFrameReqReadCounters (a : Word) (s : State) : Result := buildRequest .readCounters a s

/-- R53, R163. -/
def execFrameRepReadCounters (a : Word) (p : List Byte) (t : Half) (s : State) : Result := receiveReply .readCounters a p t s

/-- R52. -/
def execFrameReqReadBattery (a : Word) (s : State) : Result := buildRequest .readBattery a s

/-- R53, R164. -/
def execFrameRepReadBattery (a : Word) (p : List Byte) (t : Half) (s : State) : Result := receiveReply .readBattery a p t s

/-- R52. -/
def execFrameReqReadTariffs (a : Word) (s : State) : Result := buildRequest .readTariffs a s

/-- R53, R165. -/
def execFrameRepReadTariffs (a : Word) (p : List Byte) (t : Half) (s : State) : Result := receiveReply .readTariffs a p t s

/-- R52. -/
def execFrameReqReadTariff (a : Word) (s : State) : Result := buildRequest .readTariff a s

/-- R53, R166. -/
def execFrameRepReadTariff (a : Word) (p : List Byte) (t : Half) (s : State) : Result := receiveReply .readTariff a p t s

/-- R52. -/
def execFrameReqReadUip (a : Word) (s : State) : Result := buildRequest .readUip a s

/-- R53, R167. -/
def execFrameRepReadUip (a : Word) (p : List Byte) (t : Half) (s : State) : Result := receiveReply .readUip a p t s

/-- R52. -/
def execFrameReqReadLineParams (a : Word) (s : State) : Result := buildRequest .readLineParams a s

/-- R53, R168. -/
def execFrameRepReadLineParams (a : Word) (p : List Byte) (t : Half) (s : State) : Result := receiveReply .readLineParams a p t s

end Sys2Proof.Machine
end

