-- ==== Sys2Proof/Machine/Length.lean ====
section
/-! DEFINITION. `LEN.RESOLVE` (spec/42_replylen.md R111). -/

namespace Sys2Proof.Machine

/-- R111. -/
def execLenResolve (c : Byte) (s : State) : Result :=
  match commandOf s.cfg c with
  | some k => returnValue (BitVec.ofNat 32 (replyPayload k)) s
  | none => raise .unsupportedCommand s

end Sys2Proof.Machine
end

