-- ==== Sys2Proof/Machine/PacketOps.lean ====
section
/-! DEFINITION. `PKT.CHECK` and `BUF.RD` (spec/43_framer.md R126, R127). -/

namespace Sys2Proof.Machine

/-- R126: `V[s]`, `R` and `ERR` by the source's `isValid`. -/
def execPktCheck (b : Buf) (s : State) : Result :=
  guarded (checkPacket s b) s
    (completeFlagged (!packetValid s b) .corruptReply
      ((s.setValid b (packetValid s b)).setR (if packetValid s b then 1 else 0)))

/-- R127. -/
def execBufRd (b : Buf) (i : Byte) (s : State) : Result :=
  if i.toNat ≥ s.len b then raise .bufRange s
  else returnValue ((readByte s b i.toNat).setWidth 32) s

end Sys2Proof.Machine
end

