-- ==== Sys2Proof/Machine/Dispatch.lean ====
section
/-! DEFINITION. One arm per instruction of spec/opcode_table.json. -/

namespace Sys2Proof.Machine

def exec (i : Instr) (s : State) : Host.Outcome State Fault Refusal :=
  match i with
  | .bcdDec n v => Sys2Proof.Machine.execBcdDec n v s
  | .bcdDec8 x => Sys2Proof.Machine.execBcdDec8 x s
  | .crcClr => Sys2Proof.Machine.execCrcClr s
  | .crcUpd x => Sys2Proof.Machine.execCrcUpd x s
  | .crcGet => Sys2Proof.Machine.execCrcGet s
  | .crcFrame b => Sys2Proof.Machine.execCrcFrame b s
  | .lenResolve c => Sys2Proof.Machine.execLenResolve c s
  | .frmHdr c a => Sys2Proof.Machine.execFrmHdr c a s
  | .frmPay x => Sys2Proof.Machine.execFrmPay x s
  | .frmSeal => Sys2Proof.Machine.execFrmSeal s
  | .dfrClr => Sys2Proof.Machine.execDfrClr s
  | .dfrPush x => Sys2Proof.Machine.execDfrPush x s
  | .pktCheck b => Sys2Proof.Machine.execPktCheck b s
  | .bufRd b x => Sys2Proof.Machine.execBufRd b x s
  | .getAddr b => Sys2Proof.Machine.execGetAddr b s
  | .getCmd b => Sys2Proof.Machine.execGetCmd b s
  | .getCrc b => Sys2Proof.Machine.execGetCrc b s
  | .getB b k => Sys2Proof.Machine.execGetB b k s
  | .getH b k => Sys2Proof.Machine.execGetH b k s
  | .getT b k => Sys2Proof.Machine.execGetT b k s
  | .getW b k => Sys2Proof.Machine.execGetW b k s
  | .getDt b k => Sys2Proof.Machine.execGetDt b k s
  | .frameReqReadTime a => Sys2Proof.Machine.execFrameReqReadTime a s
  | .frameRepReadTime a p t => Sys2Proof.Machine.execFrameRepReadTime a p t s
  | .frameReqReadPower a => Sys2Proof.Machine.execFrameReqReadPower a s
  | .frameRepReadPower a p t => Sys2Proof.Machine.execFrameRepReadPower a p t s
  | .frameReqReadCounters a => Sys2Proof.Machine.execFrameReqReadCounters a s
  | .frameRepReadCounters a p t => Sys2Proof.Machine.execFrameRepReadCounters a p t s
  | .frameReqReadBattery a => Sys2Proof.Machine.execFrameReqReadBattery a s
  | .frameRepReadBattery a p t => Sys2Proof.Machine.execFrameRepReadBattery a p t s
  | .frameReqReadTariffs a => Sys2Proof.Machine.execFrameReqReadTariffs a s
  | .frameRepReadTariffs a p t => Sys2Proof.Machine.execFrameRepReadTariffs a p t s
  | .frameReqReadTariff a => Sys2Proof.Machine.execFrameReqReadTariff a s
  | .frameRepReadTariff a p t => Sys2Proof.Machine.execFrameRepReadTariff a p t s
  | .frameReqReadUip a => Sys2Proof.Machine.execFrameReqReadUip a s
  | .frameRepReadUip a p t => Sys2Proof.Machine.execFrameRepReadUip a p t s
  | .frameReqReadLineParams a => Sys2Proof.Machine.execFrameReqReadLineParams a s
  | .frameRepReadLineParams a p t => Sys2Proof.Machine.execFrameRepReadLineParams a p t s

end Sys2Proof.Machine
end

