-- ==== Sys2Proof/Machine/Port.lean ====
section
/-! DEFINITION. The host port: what the block does with the event presented (spec/20_memory.md R41;
spec/60_exceptions.md R185, R196; spec/70_reset_and_hazards.md R210). -/

namespace Sys2Proof.Machine

/-- R8, R210 (notes/assumptions/8.md): the reset event puts all state at its reset value and samples the strap; what the host presents next is not
the block's. -/
def resetEvent (strap : Variant) (s : State) : Result :=
  .next ((State.resetOf (s.cfg.strapped strap)).setPort s.port)

/-- Run what one event stands for. R65: an illegal word changes nothing but `ERR`. A byte string that is no wire frame of
the table has no meaning (R60, U11). -/
def present (e : PortEvent) (s : State) : Result :=
  match e with
  | .reset strap => resetEvent strap s
  | .word w =>
    match decodeWord w with
    | .ok i => exec i s
    | .error _ => raise .illegalOp s
  | .frame bytes =>
    match decodeFrame s.cfg s.variant bytes with
    | .ok i => exec i s
    | .error why => .refused (.notAFrame why)

/-- R41, R196: the block serves the event presented; with none presented nothing happens. -/
def servePort (s : State) : Result :=
  match s.port with
  | [] => .next s
  | e :: rest => present e (s.setPort rest)

end Sys2Proof.Machine
end

