-- ==== Sys2Proof/Machine/Step.lean ====
section
/-! DEFINITION. One step: the block serves what stands on its port (spec/20_memory.md R41, R43). -/

namespace Sys2Proof.Machine

/-- One operation is one atomic transition (R6, R37). -/
def step (s : State) : Host.Outcome State Fault Refusal := servePort s

/-- The state in which the next step serves the instruction whose bits are `w`: the host presents it
(notes/assumptions/3.md). -/
def State.withFetchWord (s : State) (nbits w : Nat) : State :=
  s.setPort (eventOfBits nbits w :: s.port)

end Sys2Proof.Machine
end

