-- ==== Sys2Proof/Machine/Pseudo.lean ====
section
/-! DEFINITION. The pseudo-operations of spec/30_encoding.md R68: the sequences of operations the host issues. -/

namespace Sys2Proof.Machine

/-- R41: operations one after another, in the order given. -/
def runOps : List Instr → State → Result
  | [], s => .next s
  | i :: is, s => andThen (exec i s) (runOps is)

/-- The same, collecting what the host reads in `R` after each operation. -/
def runCollect : List Instr → State → Host.Outcome (List Word × State) Fault Refusal
  | [], s => .next ([], s)
  | i :: is, s =>
    andThen (exec i s) fun t => andThen (runCollect is t) fun p => .next (t.r :: p.1, p.2)

/-- R68, R229: an operation and then a second one that takes its operand from what the first left; the second is not
issued if the first faults. -/
def twoStep (first : Instr) (second : State → Instr) (s : State) : Result :=
  andThen (exec first s) fun t => if t.err = .none then exec (second t) t else .next t

/-- R68. -/
inductive Pseudo where
  | build (c : Byte) (a : Word) (p : List Byte)
  | request (c : Byte) (a : Word)
  | crc16 (bytes : List Byte)
  | recv (bytes : List Byte)
  | send
  | getBcd2 (b : Buf) (k : Byte)
  | getBcd4 (b : Buf) (k : Byte)
  | getBcd6 (b : Buf) (k : Byte)
  | getBcd8 (b : Buf) (k : Byte)
deriving DecidableEq, Repr

/-- R68 `BUILD`: header, payload bytes, seal. -/
def buildOps (c : Byte) (a : Word) (p : List Byte) : List Instr :=
  .frmHdr c a :: (p.map .frmPay ++ [.frmSeal])

/-- R68 `SEND`: `BUF.RD TX, 0` to `BUF.RD TX, TXLEN-1`. -/
def sendOps (s : State) : List Instr :=
  (List.range (s.len .tx)).map fun i => .bufRd .tx (BitVec.ofNat 8 i)

/-- R68, R218: the bytes `SEND` hands to the transport, each `R[7:0]`. -/
def sendBytes (s : State) : Host.Outcome (List Byte × State) Fault Refusal :=
  andThen (runCollect (sendOps s) s) fun p => .next (p.1.map (BitVec.setWidth 8), p.2)

/-- R68: the expansion of each pseudo-operation. -/
def runPseudo (p : Pseudo) (s : State) : Result :=
  match p with
  | .build c a bytes => runOps (buildOps c a bytes) s
  | .request c a => runOps (buildOps c a []) s
  | .crc16 bytes => runOps (.crcClr :: (bytes.map .crcUpd ++ [.crcGet])) s
  | .recv bytes => runOps (.dfrClr :: bytes.map .dfrPush) s
  | .send => runOps (sendOps s) s
  | .getBcd2 b k => twoStep (.getB b k) (fun t => .bcdDec8 (t.r.setWidth 8)) s
  | .getBcd4 b k => twoStep (.getH b k) (fun t => .bcdDec 4 t.r) s
  | .getBcd6 b k => twoStep (.getT b k) (fun t => .bcdDec 6 t.r) s
  | .getBcd8 b k => twoStep (.getW b k) (fun t => .bcdDec 8 t.r) s

end Sys2Proof.Machine
end

