-- ==== Sys2Proof/Machine/Layout.lean ====
section
/-! DEFINITION. The reply payload layouts per command (spec/45_payload_fields.md R160 to R170). The block delivers
integers; the decimal scale and the `+ 1` of the tariff index are the host's annotation (R5, R166). -/

namespace Sys2Proof.Machine

/-- What a payload field means. -/
inductive Quantity where
  | dateTime
  | energyCounter (i : Nat)
  | batteryVoltage
  | tariffCount
  | tariffIndex
  | voltage
  | current
  | power
deriving DecidableEq, Repr

/-- R160: which sequence reads a field. -/
inductive FieldRead where
  | dateTime
  | byte
  | bcd4
  | bcd6
  | bcd8
deriving DecidableEq, Repr

/-- One row of a layout: payload offset, width in bytes, content and the sequence that reads it. -/
structure PayloadField where
  offset : Nat
  width : Nat
  quantity : Quantity
  read : FieldRead
deriving DecidableEq, Repr

/-- R161 to R168. `READ_POWER` and `READ_LINE_PARAMS` are opaque bytes with no field (R162, R168). -/
def layout : Command → List PayloadField
  | .readTime => [⟨0, 7, .dateTime, .dateTime⟩]
  | .readPower => []
  | .readCounters =>
    [⟨0, 4, .energyCounter 0, .bcd8⟩, ⟨4, 4, .energyCounter 1, .bcd8⟩, ⟨8, 4, .energyCounter 2, .bcd8⟩,
      ⟨12, 4, .energyCounter 3, .bcd8⟩]
  | .readBattery => [⟨0, 2, .batteryVoltage, .bcd4⟩]
  | .readTariffs => [⟨0, 1, .tariffCount, .byte⟩]
  | .readTariff => [⟨0, 1, .tariffIndex, .byte⟩]
  | .readUip => [⟨0, 2, .voltage, .bcd4⟩, ⟨2, 2, .current, .bcd4⟩, ⟨4, 3, .power, .bcd6⟩]
  | .readLineParams => []

/-- R163 to R169: the host's value is the integer times ten to the minus this. -/
def decimals (u : UipScale) : Quantity → Nat
  | .dateTime => 0
  | .energyCounter _ => 2
  | .batteryVoltage => 2
  | .tariffCount => 0
  | .tariffIndex => 0
  | .voltage => 1
  | .current => match u with | .fine => 2 | .coarse => 1
  | .power => match u with | .fine => 3 | .coarse => 1

/-- R166: what the host adds to the integer before it reports it. -/
def reportOffset : Quantity → Nat
  | .tariffIndex => 1
  | _ => 0

/-- R160: read one field of the reply. -/
def readField (f : PayloadField) (s : State) : Result :=
  match f.read with
  | .dateTime => exec (.getDt .rx (BitVec.ofNat 8 f.offset)) s
  | .byte => exec (.getB .rx (BitVec.ofNat 8 f.offset)) s
  | .bcd4 => runPseudo (.getBcd4 .rx (BitVec.ofNat 8 f.offset)) s
  | .bcd6 => runPseudo (.getBcd6 .rx (BitVec.ofNat 8 f.offset)) s
  | .bcd8 => runPseudo (.getBcd8 .rx (BitVec.ofNat 8 f.offset)) s

/-- What the host gets from a field: a date or an integer, not yet scaled (R5). -/
inductive FieldValue where
  | date (d : DateTime)
  | number (v : Word)
deriving DecidableEq, Repr

/-- One extracted field: what it means, what `ERR` said, and its value if it may be used. -/
structure FieldResult where
  quantity : Quantity
  err : ErrCode
  value : Option FieldValue
deriving DecidableEq, Repr

/-- R161: a date-time record is delivered in `DT_*`, every other field in `R`. -/
def deliveredIn (read : FieldRead) (s : State) : FieldValue :=
  match read with
  | .dateTime => .date s.dt
  | .byte => .number s.r
  | .bcd4 => .number s.r
  | .bcd6 => .number s.r
  | .bcd8 => .number s.r

/-- R192, R229: with `BcdDigit` the result must not be used, and after a fault the registers hold an older value. -/
def fieldResult (f : PayloadField) (s : State) : FieldResult where
  quantity := f.quantity
  err := s.err
  value := if s.err = .none then some (deliveredIn f.read s) else none

/-- R160: read fields one after another, keeping each result before the next operation overwrites it (R229).
The order, and going on after a flagged field, are the model's choice (notes/assumptions/14.md). -/
def readFields : List PayloadField → State → Host.Outcome (List FieldResult × State) Fault Refusal
  | [], s => .next ([], s)
  | f :: fs, s =>
    andThen (readField f s) fun t =>
      andThen (readFields fs t) fun p => .next (fieldResult f t :: p.1, p.2)

/-- R232, R170: the host extracts the fields of a reply only when `V[RX] = 1`; otherwise it issues no operation. No
`DFR.CLR` or `DFR.PUSH` comes between, since `readFields` only reads. -/
def extractReply (c : Command) (s : State) : Host.Outcome (List FieldResult × State) Fault Refusal :=
  if s.rx.valid then readFields (layout c) s else .next ([], s)

end Sys2Proof.Machine
end

