-- ==== Sys2Proof/Machine/HostEngine.lean ====
section
/-! DEFINITION. The host's transaction protocol over the block (spec/70_reset_and_hazards.md R215 to R223, R227, R228,
R231) and the extraction of a validated reply's fields (R232): block plus host, for one caller. No step of the block uses this file. -/

namespace Sys2Proof.Machine

/-- R227: what one read call of the transport gives. -/
inductive ReadResult where
  | data (bytes : List Byte)
  | timeout
  | endOfStream
deriving DecidableEq, Repr

/-- The channel as one transaction meets it: attached or not (R231), whether the write succeeds, what the read calls give
in order, and the millisecond at which the settling wait is interrupted, if it is (R228). -/
structure Channel where
  attached : Bool
  writeSucceeds : Bool
  reads : List ReadResult
  interruptAt : Option Nat
deriving DecidableEq, Repr

/-- R215, with `writeFailed` for the exit the source names no condition for (R218, U19). -/
inductive TxOutcome where
  | validated
  | channelUnavailable
  | unsupportedCommand
  | writeFailed
  | replyTimeout
  | channelClosed
  | corruptReply
deriving DecidableEq, Repr

/-- How a transaction ends: the outcome, the block after it, the one write if there was one, the settling delay owed and
the time waited, and whether the channel stays attached. -/
structure TxReport where
  outcome : TxOutcome
  block : State
  written : Option (List Byte)
  settleOwed : Nat
  waited : Nat
  attached : Bool
deriving DecidableEq, Repr

/-- R219: read until `n` bytes are collected; `none` is success. A channel with no further read result gives nothing more,
which is a timeout (notes/assumptions/10.md). -/
def collectReply (n : Nat) : List ReadResult → State → Host.Outcome (Option TxOutcome × State) Fault Refusal
  | [], s => .next (if n ≤ s.len .rx then none else some .replyTimeout, s)
  | r :: rs, s =>
    if n ≤ s.len .rx then .next (none, s)
    else
      match r with
      | .data [] => .next (some .replyTimeout, s)
      | .data (x :: xs) => andThen (pushAll ((x :: xs).take (n - s.len .rx)) s) (collectReply n rs)
      | .timeout => .next (some .replyTimeout, s)
      | .endOfStream => .next (some .channelClosed, s)

/-- R228: an interrupted wait counts as waited. -/
def settleWait (owed : Nat) : Option Nat → Nat
  | none => owed
  | some at' => min owed at'

/-- R221: an exit before any write owes no delay. -/
def endUnwritten (o : TxOutcome) (ch : Channel) (s : State) : TxReport where
  outcome := o
  block := s
  written := none
  settleOwed := 0
  waited := 0
  attached := ch.attached

/-- R221: every exit after a write was attempted owes the settling delay. R231: `ChannelClosed` loses the channel,
`CorruptReply` and `ReplyTimeout` leave it attached. DESIGN CHOICE, unsafe for claims about the host
(notes/assumptions/15.md): a failed write leaves it attached, of which the spec says nothing. -/
def endWritten (o : TxOutcome) (ch : Channel) (bytes : List Byte) (s : State) : TxReport where
  outcome := o
  block := s
  written := some bytes
  settleOwed := s.cfg.settleMs
  waited := settleWait s.cfg.settleMs ch.interruptAt
  attached := o != .channelClosed

/-- R222: `PKT.CHECK RX` decides the outcome. DESIGN CHOICE: of the times R222 allows, before the settling wait
(notes/assumptions/16.md). -/
def checkReply (ch : Channel) (bytes : List Byte) (s : State) : Host.Outcome TxReport Fault Refusal :=
  andThen (exec (.pktCheck .rx) s) fun t =>
    .next (endWritten (if t.r = 1 then .validated else .corruptReply) ch bytes t)

/-- R218 to R222: write the request, read `n` bytes, check them. -/
def writeAndRead (ch : Channel) (n : Nat) (s : State) : Host.Outcome TxReport Fault Refusal :=
  andThen (sendBytes s) fun p =>
    if ch.writeSucceeds = false then .next (endWritten .writeFailed ch p.1 p.2)
    else
      andThen (exec .dfrClr p.2) fun t =>
        andThen (collectReply n ch.reads t) fun q =>
          match q.1 with
          | some o => .next (endWritten o ch p.1 q.2)
          | none => checkReply ch p.1 q.2

/-- R215: `executeTransaction` for the command `c` and the address `a`. DESIGN CHOICE, unsafe for claims about the host
(notes/assumptions/16.md): of what R215 and R217 allow, the request is built at its start, and the host resolves its own
`c` and issues no `GET.CMD TX`, so that `UnsupportedCommand` leaves `R` as it was. -/
def executeTransaction (ch : Channel) (c : Byte) (a : Word) (s : State) : Host.Outcome TxReport Fault Refusal :=
  andThen (runPseudo (.request c a) s) fun s1 =>
    if ch.attached = false then .next (endUnwritten .channelUnavailable ch s1)
    else
      andThen (exec (.lenResolve c) s1) fun s2 =>
        if s2.err ≠ .none then .next (endUnwritten .unsupportedCommand ch s2)
        else writeAndRead ch (s2.r.toNat + envelope) s2

/-- What a transaction delivers to the host: its report and the fields extracted. -/
structure Delivery where
  report : TxReport
  fields : List FieldResult
deriving DecidableEq, Repr

/-- R232: after a validated reply, and after no other outcome, the host extracts the fields of the command's layout before
anything else is received. -/
def transactAndExtract (ch : Channel) (c : Byte) (a : Word) (s : State) : Host.Outcome Delivery Fault Refusal :=
  andThen (executeTransaction ch c a s) fun rep =>
    match commandOf s.cfg c with
    | none => .next { report := rep, fields := [] }
    | some cmd =>
      if rep.outcome = .validated then
        andThen (extractReply cmd rep.block) fun p =>
          .next { report := { rep with block := p.2 }, fields := p.1 }
      else .next { report := rep, fields := [] }

end Sys2Proof.Machine
end

