-- ==== Sys2Proof/Safety.lean ====
section
/-! DEFINITION. What counts as a safe run: the invariants of spec/10_state.md R24, the states that no read can tell apart
(spec/20_memory.md R46), and the words claims use. -/

namespace Sys2Proof.Machine

/-- R181, the column `kind`: the codes that are faults. -/
def ErrCode.isFault : ErrCode → Bool
  | .none => false
  | .illegalOp => true
  | .unsupportedCommand => true
  | .corruptReply => false
  | .frameTooShort => true
  | .frameOverflow => true
  | .fieldRange => true
  | .bufRange => true
  | .bcdDigit => false
  | .bcdWidth => true
  | .frameState => true

/-- R24, with the model's own part: the buffers are in canonical form, every byte below a length has a value, and
`VARIANT` is the strap (R18). The first bullet of R24 holds by the type of the lengths. -/
structure Inv (s : State) : Prop where
  sealed_len : s.isSealed = true → 7 ≤ s.len .tx
  unsealed_len : s.isSealed = false → s.len .tx = 0 ∨ (5 ≤ s.len .tx ∧ s.len .tx ≤ frameMax - 2)
  sealed_trailer : s.isSealed = true → packetTrailer s .tx = recomputedTrailer s .tx
  valid_tx_sealed : s.tx.valid = true → s.isSealed = true
  valid_rx_len : s.rx.valid = true → 7 ≤ s.len .rx
  valid_packet : ∀ b, (s.buf b).valid = true → recomputedTrailer s b = packetTrailer s b
  canonical : ∀ b, (s.buf b).bytes.wf
  written : ∀ b i, i < s.len b → ((s.buf b).bytes.read i).isSome = true
  strap : s.variant = s.cfg.crcVariant

/-- R31, R46: two packets that hold the same bytes below the same length. -/
structure Packet.SameContent (b : Buf) (s t : State) : Prop where
  len : s.len b = t.len b
  valid : (s.buf b).valid = (t.buf b).valid
  bytes : ∀ i, i < s.len b → readByte s b i = readByte t b i

/-- R46: two states that differ at most in what cannot be observed. -/
structure Unobservable (s t : State) : Prop where
  r : s.r = t.r
  dt : s.dt = t.dt
  acc : s.acc = t.acc
  isSealed : s.isSealed = t.isSealed
  err : s.err = t.err
  variant : s.variant = t.variant
  cfg : s.cfg = t.cfg
  port : s.port = t.port
  content : ∀ b, Packet.SameContent b s t

/-- Two outcomes that differ at most in what cannot be observed. -/
def UnobservableOutcome : Result → Result → Prop
  | .next s, .next t => Unobservable s t
  | .fault e, .fault f => e = f
  | .refused e, .refused f => e = f
  | _, _ => False

/-- R41: the instruction that the next step runs, if the event presented stands for one. -/
def presented (s : State) : Option Instr :=
  match s.port with
  | [] => none
  | e :: _ =>
    match decode s.cfg s.variant e with
    | .ok i => some i
    | .error _ => none

/-- One row of the table of R63: a word `w` selects it with `(w AND mask) = match`. -/
structure OpRow where
  mnemonic : String
  pattern : OpWord
  mask : OpWord
deriving DecidableEq, Repr

/-- R63: `(w AND mask) = match`. -/
abbrev OpRow.selects (row : OpRow) (w : OpWord) : Prop := w &&& row.mask = row.pattern

/-- The table of R63. -/
def opRows : List OpRow :=
  [
   ⟨"BCD.DEC", 0x080000000000, 0xFF0000000000⟩,
   ⟨"BCD.DEC8", 0x100000000000, 0xFF00FFFFFFFF⟩,
   ⟨"CRC.CLR", 0x180000000000, 0xFFFFFFFFFFFF⟩,
   ⟨"CRC.UPD", 0x200000000000, 0xFF00FFFFFFFF⟩,
   ⟨"CRC.GET", 0x280000000000, 0xFFFFFFFFFFFF⟩,
   ⟨"CRC.FRAME", 0x300000000000, 0xFEFFFFFFFFFF⟩,
   ⟨"LEN.RESOLVE", 0x380000000000, 0xFF00FFFFFFFF⟩,
   ⟨"FRM.HDR", 0x400000000000, 0xFF0000000000⟩,
   ⟨"FRM.PAY", 0x480000000000, 0xFF00FFFFFFFF⟩,
   ⟨"FRM.SEAL", 0x500000000000, 0xFFFFFFFFFFFF⟩,
   ⟨"DFR.CLR", 0x580000000000, 0xFFFFFFFFFFFF⟩,
   ⟨"DFR.PUSH", 0x600000000000, 0xFF00FFFFFFFF⟩,
   ⟨"PKT.CHECK", 0x680000000000, 0xFEFFFFFFFFFF⟩,
   ⟨"BUF.RD", 0x700000000000, 0xFE00FFFFFFFF⟩,
   ⟨"GET.ADDR", 0x780000000000, 0xFEFFFFFFFFFF⟩,
   ⟨"GET.CMD", 0x800000000000, 0xFEFFFFFFFFFF⟩,
   ⟨"GET.CRC", 0x880000000000, 0xFEFFFFFFFFFF⟩,
   ⟨"GET.B", 0x900000000000, 0xFE00FFFFFFFF⟩,
   ⟨"GET.H", 0x980000000000, 0xFE00FFFFFFFF⟩,
   ⟨"GET.T", 0xA00000000000, 0xFE00FFFFFFFF⟩,
   ⟨"GET.W", 0xA80000000000, 0xFE00FFFFFFFF⟩,
   ⟨"GET.DT", 0xB00000000000, 0xFE00FFFFFFFF⟩
  ]

/-- What the tables of R10 (column `written by`) and R181 (column `raised by`) say of one operation, and whether R38 calls it
a read. -/
structure Effects where
  /-- One of the 22 operations of R63; a wire frame is none. -/
  operation : Bool := true
  r : Bool := false
  dt : Bool := false
  acc : Bool := false
  isSealed : Bool := false
  bytes : List Buf := []
  len : List Buf := []
  valid : List Buf := []
  raises : List ErrCode := []
  readsOnly : Bool := false
deriving DecidableEq, Repr

/-- R181, R194: what the check of R140 can raise. `FrameState` comes only with `S = TX`. -/
def packetRaises : Buf → List ErrCode
  | .tx => [.frameState, .frameTooShort]
  | .rx => [.frameTooShort]

/-- R10, R181, R38: the row of each instruction. A wire frame has no row of its own in those tables. -/
def effects : Instr → Effects
  | .bcdDec _ _ => { r := true, raises := [.bcdDigit, .bcdWidth], readsOnly := true }
  | .bcdDec8 _ => { r := true, raises := [.bcdDigit], readsOnly := true }
  | .crcClr => { acc := true }
  | .crcUpd _ => { acc := true }
  | .crcGet => { r := true, readsOnly := true }
  | .crcFrame b => { r := true, raises := packetRaises b, readsOnly := true }
  | .lenResolve _ => { r := true, raises := [.unsupportedCommand], readsOnly := true }
  | .frmHdr _ _ => { isSealed := true, bytes := [.tx], len := [.tx], valid := [.tx] }
  | .frmPay _ => { bytes := [.tx], len := [.tx], valid := [.tx], raises := [.frameState, .frameOverflow] }
  | .frmSeal => { isSealed := true, bytes := [.tx], len := [.tx], valid := [.tx], raises := [.frameState] }
  | .dfrClr => { len := [.rx], valid := [.rx] }
  | .dfrPush _ => { bytes := [.rx], len := [.rx], valid := [.rx], raises := [.frameOverflow] }
  | .pktCheck b => { r := true, valid := [b], raises := packetRaises b ++ [.corruptReply], readsOnly := true }
  | .bufRd _ _ => { r := true, raises := [.bufRange], readsOnly := true }
  | .getAddr b => { r := true, raises := packetRaises b, readsOnly := true }
  | .getCmd b => { r := true, raises := packetRaises b, readsOnly := true }
  | .getCrc b => { r := true, raises := packetRaises b, readsOnly := true }
  | .getB b _ => { r := true, raises := packetRaises b ++ [.fieldRange], readsOnly := true }
  | .getH b _ => { r := true, raises := packetRaises b ++ [.fieldRange], readsOnly := true }
  | .getT b _ => { r := true, raises := packetRaises b ++ [.fieldRange], readsOnly := true }
  | .getW b _ => { r := true, raises := packetRaises b ++ [.fieldRange], readsOnly := true }
  | .getDt b _ => { dt := true, raises := packetRaises b ++ [.fieldRange, .bcdDigit], readsOnly := true }
  | .frameReqReadTime _ => { operation := false }
  | .frameRepReadTime _ _ _ => { operation := false }
  | .frameReqReadPower _ => { operation := false }
  | .frameRepReadPower _ _ _ => { operation := false }
  | .frameReqReadCounters _ => { operation := false }
  | .frameRepReadCounters _ _ _ => { operation := false }
  | .frameReqReadBattery _ => { operation := false }
  | .frameRepReadBattery _ _ _ => { operation := false }
  | .frameReqReadTariffs _ => { operation := false }
  | .frameRepReadTariffs _ _ _ => { operation := false }
  | .frameReqReadTariff _ => { operation := false }
  | .frameRepReadTariff _ _ _ => { operation := false }
  | .frameReqReadUip _ => { operation := false }
  | .frameRepReadUip _ _ _ => { operation := false }
  | .frameReqReadLineParams _ => { operation := false }
  | .frameRepReadLineParams _ _ _ => { operation := false }

/-- Every byte of both buffers reads as before. -/
def KeepsBytes (s t : State) : Prop := ∀ b j, readByte t b j = readByte s b j

/-- Nothing but `R` and `ERR` changes. -/
def ChangesOnlyR (s t : State) : Prop := t = { s with r := t.r, err := t.err } ∧ KeepsBytes s t

/-- R140: a packet may be read: a sealed request or any reply, of at least seven bytes. -/
def Readable (s : State) (b : Buf) : Prop := (b = .tx → s.isSealed = true) ∧ 7 ≤ s.len b

/-- R140: a field of `w` bytes at payload offset `k` lies inside the payload of a readable packet. -/
def FieldInside (s : State) (b : Buf) (k w : Nat) : Prop := Readable s b ∧ 5 + k + w ≤ s.len b - 2

/-- R123: there is an open packet: started and not sealed. -/
def OpenPacket (s : State) : Prop := s.isSealed = false ∧ s.len .tx ≠ 0

end Sys2Proof.Machine
end

