-- ==== Sys2Proof/Certificates/Slice0/Obligations.lean ====
section
/-! DEFINITION. The statements for the provers. -/

open Sys2Proof Sys2Proof.Machine

/-! ## Encoding -/

/-- Words written out from R62 and R63 and one frame of R52 decode to the operation they stand for (the frame under the
example codes of `Config.standard`, notes/assumptions/2.md). -/
def Obligations.SampleWordsDecode : Prop :=
  decodeWord 0x080412345678 = .ok (.bcdDec 4 0x12345678) ∧
  decodeWord 0x105900000000 = .ok (.bcdDec8 0x59) ∧
  decodeWord 0x202700000000 = .ok (.crcUpd 0x27) ∧
  decodeWord 0x310000000000 = .ok (.crcFrame .rx) ∧
  decodeWord 0x382100000000 = .ok (.lenResolve 0x21) ∧
  decodeWord 0x402700000001 = .ok (.frmHdr 0x27 1) ∧
  decodeWord 0x607700000000 = .ok (.dfrPush 0x77) ∧
  decodeWord 0x690000000000 = .ok (.pktCheck .rx) ∧
  decodeWord 0xA10400000000 = .ok (.getT .rx 4) ∧
  decodeWord 0x000000000000 = .error .illegalWord ∧
  decode Config.standard .A (.frame [0x00, 0x00, 0x00, 0x01, 0x27, 0x65, 0x8A]) = .ok (.frameReqReadCounters 1)

/-- R62 to R64, R50 to R53: every well-formed instruction is the one its encoding decodes to, whatever its operands, under
every device profile with pairwise different command codes and under both CRC variants. -/
def Obligations.EncodedInstructionDecodes : Prop :=
  ∀ (cfg : Config) (v : Variant) (i : Instr), cfg.codesDistinct → i.wellFormed = true →
    decode cfg v (encode cfg v i) = .ok i

/-- R64, R66, R52, R53, R57: whatever decodes is the one encoding of the instruction it decodes to, and that instruction is
well formed. For request frames this rests on the model's choice that a request must carry the trailer of R57 to be that
row (DEDUCED, notes/assumptions/5.md). -/
def Obligations.DecodedEventIsTheOnlyEncoding : Prop :=
  ∀ (cfg : Config) (v : Variant) (e : PortEvent) (i : Instr), decode cfg v e = .ok i →
    encode cfg v i = e ∧ i.wellFormed = true

/-- R63, R65: a word decodes exactly when some row of the match and mask table selects it. -/
def Obligations.WordDecodesIffARowSelectsIt : Prop :=
  ∀ w : OpWord, (∃ i, decodeWord w = .ok i) ↔ ∃ row ∈ opRows, row.selects w

/-- R63: the rows are disjoint. -/
def Obligations.AtMostOneRowSelects : Prop :=
  opRows.Pairwise fun p q => ∀ w : OpWord, ¬(p.selects w ∧ q.selects w)

/-! ## The step -/

/-- R41, R43: the instruction the presented event decodes to is the one the step runs, the event being taken off the port
and nothing else changed. -/
def Obligations.StepRunsThePresentedInstruction : Prop :=
  ∀ (s : State) (e : PortEvent) (rest : List PortEvent) (i : Instr),
    s.port = e :: rest → decode s.cfg s.variant e = .ok i → step s = exec i { s with port := rest }

/-- R185, R65: a presented word that no row selects sets `ERR` to 1 and changes nothing else. -/
def Obligations.IllegalWordSetsErrOnly : Prop :=
  ErrCode.illegalOp.bits = 1 ∧
  ∀ (s : State) (w : OpWord) (rest : List PortEvent),
    s.port = .word w :: rest → (∀ row ∈ opRows, ¬row.selects w) →
      step s = .next { s with port := rest, err := .illegalOp }

/-- R196: nothing happens but in answer to an event presented. -/
def Obligations.IdlePortChangesNothing : Prop :=
  ∀ s : State, s.port = [] → step s = .next s

/-- R23, R210: what the reset event leaves, from every state: every register, both lengths and every flag at the value of
R23, `VARIANT` the strap it samples. -/
def Obligations.ResetEventLeavesResetValues : Prop :=
  ErrCode.none.bits = 0 ∧
  ∀ (s : State) (strap : Variant) (rest : List PortEvent), s.port = .reset strap :: rest →
    ∃ t, step s = .next t ∧ t.r = 0 ∧
      t.dt.year = 0 ∧ t.dt.mon = 0 ∧ t.dt.day = 0 ∧ t.dt.hour = 0 ∧ t.dt.min = 0 ∧ t.dt.sec = 0 ∧
      t.acc = (match strap with | .A => s.cfg.initA | .B => s.cfg.initB) ∧
      t.len .tx = 0 ∧ t.len .rx = 0 ∧ t.isSealed = false ∧ t.tx.valid = false ∧ t.rx.valid = false ∧
      t.err = .none ∧ t.variant = strap ∧ t.cfg = { s.cfg with crcVariant := strap } ∧ t.port = rest

/-- R24: the invariants hold in the reset state of every configuration, `State.reset` among them. -/
def Obligations.ResetStateSatisfiesInv : Prop :=
  (∀ cfg : Config, Inv (State.resetOf cfg)) ∧ State.reset = State.resetOf Config.standard ∧ Inv State.reset

/-- R24: the invariants hold after every step from every state in which they hold. -/
def Obligations.EveryStepKeepsInv : Prop :=
  ∀ s t : State, Inv s → step s = .next t → Inv t

/-- R8, R18: only the reset event changes `VARIANT`; nothing else of the configuration ever changes. -/
def Obligations.OnlyResetChangesVariant : Prop :=
  ∀ s t : State, step s = .next t →
    t.cfg = { s.cfg with crcVariant := t.cfg.crcVariant } ∧
    ((∀ strap rest, s.port ≠ .reset strap :: rest) → t.variant = s.variant ∧ t.cfg = s.cfg)

/-- R183: after a fault the state is the state before it with `ERR` changed. -/
def Obligations.FaultChangesOnlyErr : Prop :=
  ∀ (i : Instr) (s t : State), (effects i).operation = true → exec i s = .next t → t.err.isFault = true →
    t = { s with err := t.err }

/-- R182: `ERR` after an instruction does not depend on `ERR` before it, and neither does anything else. -/
def Obligations.EarlierErrIsNeverRead : Prop :=
  ∀ (i : Instr) (s : State) (e : ErrCode), exec i { s with err := e } = exec i s

/-- R183, R203: no fault locks the block: from every state of the invariant every instruction is accepted. -/
def Obligations.EveryInstructionIsAccepted : Prop :=
  ∀ (i : Instr) (s : State), Inv s → ∃ t, exec i s = .next t

/-- R181, R194: an operation reports 0 or a code that the table lets it raise (`FrameState` by a packet-level operation
only with `S = TX`), and never a code above 10. -/
def Obligations.OperationsRaiseOnlyTheirCodes : Prop :=
  ∀ (i : Instr) (s t : State), (effects i).operation = true → exec i s = .next t →
    (t.err = .none ∨ t.err ∈ (effects i).raises) ∧ t.err.bits.toNat ≤ 10

/-- R10, the column `written by`: an operation changes a register, a flag, a length or a byte only if that column names
it; `VARIANT`, the configuration and the port it never changes. -/
def Obligations.StateIsWrittenOnlyByItsOperations : Prop :=
  ∀ (i : Instr) (s t : State), (effects i).operation = true → exec i s = .next t →
    ((effects i).r = false → t.r = s.r) ∧ ((effects i).dt = false → t.dt = s.dt) ∧
    ((effects i).acc = false → t.acc = s.acc) ∧ ((effects i).isSealed = false → t.isSealed = s.isSealed) ∧
    (∀ b, (b ∉ (effects i).len → t.len b = s.len b) ∧
      (b ∉ (effects i).valid → (t.buf b).valid = (s.buf b).valid) ∧
      (b ∉ (effects i).bytes → ∀ j, readByte t b j = readByte s b j)) ∧
    t.variant = s.variant ∧ t.cfg = s.cfg ∧ t.port = s.port

/-- R130: while the request packet is sealed, of the 22 operations only `FRM.HDR` changes its bytes or its length. What is
said of wire frames (a request frame begins with `FRM.HDR`, a reply frame changes nothing of the request) is the model's
choice of what they stand for (notes/assumptions/5.md). -/
def Obligations.SealedPacketIsImmutable : Prop :=
  ∀ (i : Instr) (s t : State), s.isSealed = true → (∀ c a, i ≠ .frmHdr c a) →
    (∀ c a, i ≠ .request c a) →
    exec i s = .next t →
      t.isSealed = true ∧ t.len .tx = s.len .tx ∧ ∀ j, j < s.len .tx → readByte t .tx j = readByte s .tx j

/-- R38: a read operation changes no buffer byte, length, seal or accumulator, and repeated at once it gives the same
state again. -/
def Obligations.ReadOperationsAreIdempotent : Prop :=
  ∀ (i : Instr) (s t : State), (effects i).readsOnly = true → exec i s = .next t →
    KeepsBytes s t ∧ (∀ b, t.len b = s.len b) ∧ t.isSealed = s.isSealed ∧ t.acc = s.acc ∧ exec i t = .next t

/-- R150, R16: no instruction reads `V[s]`. An operation that writes `V[b]` (R10) and does not fault ends in the same state
whatever the flag was; any other operation ends in the same state but for the flag, which it leaves as it was. A request
frame writes `V[TX]` and a reply frame `V[RX]` (the model's choice of what they stand for: notes/assumptions/5.md). -/
def Obligations.ValidFlagIsNeverRead : Prop :=
  ∀ (i : Instr) (s t : State) (b : Buf) (v : Bool), exec i s = .next t →
    ((effects i).operation = true → b ∈ (effects i).valid → t.err.isFault = false →
      exec i (s.setValid b v) = .next t) ∧
    ((effects i).operation = true → b ∉ (effects i).valid ∨ t.err.isFault = true →
      exec i (s.setValid b v) = .next (t.setValid b v)) ∧
    (∀ c a, i = .request c a →
      exec i (s.setValid b v) = .next (match b with | .tx => t | .rx => t.setValid .rx v)) ∧
    ∀ c a p k, i = .reply c a p k →
      exec i (s.setValid b v) = .next (match b with | .tx => t.setValid .tx v | .rx => t)

/-- R31, R46: a byte at or above a length cannot be observed: two states that differ at most there go on to two states
that differ at most there, whatever is presented. -/
def Obligations.UnwrittenBytesAreUnobservable : Prop :=
  ∀ s t : State, Unobservable s t → UnobservableOutcome (step s) (step t)

/-! ## BCD decoder -/

/-- R81, R80: `BCD.DEC n, v` for `n` up to 8: `R` is the sum of `n` decimal digits, `ERR` is `BcdDigit` exactly when one
of them is above 9, nothing else changes. -/
def Obligations.BcdDecResult : Prop :=
  ErrCode.bcdDigit.bits = 8 ∧
  ∀ (n : Byte) (v : Word) (s : State), n.toNat ≤ 8 →
    ∃ t, exec (.bcdDec n v) s = .next t ∧ ChangesOnlyR s t ∧
      t.r.toNat = ∑ i ∈ Finset.range n.toNat, v.toNat / 16 ^ i % 16 * 10 ^ i ∧
      (t.err = .none ∨ t.err = .bcdDigit) ∧
      (t.err = .bcdDigit ↔ ∃ i < n.toNat, 9 < v.toNat / 16 ^ i % 16)

/-- R193: a digit count above 8 faults with `BcdWidth` and changes nothing but `ERR`. -/
def Obligations.BcdDecAboveEightFaults : Prop :=
  ErrCode.bcdWidth.bits = 9 ∧
  ∀ (n : Byte) (v : Word) (s : State), 8 < n.toNat → exec (.bcdDec n v) s = .next { s with err := .bcdWidth }

/-- R82: `BCD.DEC8 x`. -/
def Obligations.BcdDecEightResult : Prop :=
  ∀ (x : Byte) (s : State),
    ∃ t, exec (.bcdDec8 x) s = .next t ∧ ChangesOnlyR s t ∧
      t.r.toNat = x.toNat / 16 * 10 + x.toNat % 16 ∧
      (t.err = .none ∨ t.err = .bcdDigit) ∧
      (t.err = .bcdDigit ↔ 9 < x.toNat / 16 ∨ 9 < x.toNat % 16)

/-- R85: the one-byte decoder and the two-digit decoder agree on every byte, in every state; what the decoder writes to
`R` (nothing, where it faults) and to `ERR` is the same from every state, and it writes nothing else. -/
def Obligations.ByteDecoderAgreesWithTwoDigits : Prop :=
  (∀ (x : Byte) (s : State), exec (.bcdDec8 x) s = exec (.bcdDec 2 (x.setWidth 32)) s) ∧
  (∀ x : Byte, ∃ (v : Word) (e : ErrCode), ∀ s : State, exec (.bcdDec8 x) s = .next { s with r := v, err := e }) ∧
  ∀ (n : Byte) (v : Word), ∃ (v' : Option Word) (e : ErrCode), ∀ s : State,
    exec (.bcdDec n v) s = .next { s with r := v'.getD s.r, err := e }

/-- R84: the bounds of the decoder, with good digits and with any digits, and no wrap in `R`. -/
def Obligations.BcdValueIsBounded : Prop :=
  ∀ (n : Nat) (v : Word), n ≤ 8 →
    (bad v n = false → bcd v n ≤ 10 ^ n - 1) ∧ bcd v n ≤ 15 * (10 ^ n - 1) / 9 ∧ bcd v n < 2 ^ 28

/-! ## CRC engine -/

/-- R95: `CRC.CLR`. -/
def Obligations.CrcClrResult : Prop :=
  ∀ s : State,
    exec .crcClr s =
      .next { s with acc := (match s.variant with | .A => s.cfg.initA | .B => s.cfg.initB), err := .none } ∧
    (Config.standard.initA = 0xFFFF ∧ Config.standard.initB = 0x0000)

/-- R96, R91, R92: `CRC.UPD x` writes `ACC` with the byte absorbed and clears `ERR`; eight shifts, each XOR-ing the
polynomial when the bit about to leave is 1, after the byte entered at the low end (A) or the high end (B). -/
def Obligations.CrcUpdResult : Prop :=
  ∀ (x : Byte) (s : State), ∃ ys : Nat → Half,
    exec (.crcUpd x) s = .next { s with acc := ys 8, err := .none } ∧
    (s.variant = .A → ys 0 = s.acc ^^^ x.setWidth 16 ∧ ∀ k < 8,
      (ys k).toNat % 2 = 1 ∧ ys (k + 1) = (ys k >>> 1) ^^^ s.cfg.polyA ∨
        (ys k).toNat % 2 = 0 ∧ ys (k + 1) = ys k >>> 1) ∧
    (s.variant = .B → ys 0 = s.acc ^^^ (x.setWidth 16 <<< 8) ∧ ∀ k < 8,
      2 ^ 15 ≤ (ys k).toNat ∧ ys (k + 1) = (ys k <<< 1) ^^^ s.cfg.polyB ∨
        (ys k).toNat < 2 ^ 15 ∧ ys (k + 1) = ys k <<< 1)

/-- R100: the update step is linear over XOR in the remainder and the byte, for both variants and every polynomial. -/
def Obligations.CrcStepIsLinear : Prop :=
  ∀ (cfg : Config) (v : Variant) (a a' : Half) (x x' : Byte),
    crcStep cfg v (a ^^^ a') (x ^^^ x') = crcStep cfg v a x ^^^ crcStep cfg v a' x'

/-- R100: with `POLY_A[15] = 1` and `POLY_B[0] = 1` the update step loses nothing of the remainder. -/
def Obligations.CrcStepIsInvertible : Prop :=
  ∀ (cfg : Config) (v : Variant) (x : Byte), cfg.polyA.getLsbD 15 = true → cfg.polyB.getLsbD 0 = true →
    Function.Bijective fun a => crcStep cfg v a x

/-- R90: variant A is the reflected form of variant B: with the polynomial, the remainder and the byte reversed bit by bit
one step gives the reversed remainder; `0xA001` is `0x8005` reversed. -/
def Obligations.VariantsAreMirrorImages : Prop :=
  (0x8005 : Half).reverse = 0xA001 ∧
  ∀ (p a : Half) (x : Byte), updA p.reverse a.reverse x.reverse = (updB p a x).reverse

/-- R97, R93: `CRC.GET` gives the remainder with its bytes exchanged (A) or as it is (B), and leaves `ACC`. -/
def Obligations.CrcGetResult : Prop :=
  ∀ s : State, ∃ t, exec .crcGet s = .next t ∧ ChangesOnlyR s t ∧ t.err = .none ∧
    (s.variant = .A → t.r.toNat = s.acc.toNat % 256 * 256 + s.acc.toNat / 256) ∧
    (s.variant = .B → t.r.toNat = s.acc.toNat)

/-- R68, R69, R94: the streaming operations give `crc16` of the bytes absorbed, from every state, and touch nothing but
`ACC`, `R` and `ERR`. -/
def Obligations.StreamedCrcIsCrcOfTheBytes : Prop :=
  ∀ (bytes : List Byte) (s : State), ∃ t, runPseudo (.crc16 bytes) s = .next t ∧
    t = { s with r := t.r, acc := t.acc, err := .none } ∧
    t.r.toNat = (crc16 s.cfg s.variant bytes).toNat ∧ t.acc = crcRaw s.cfg s.variant (crcInit s.cfg s.variant) bytes

/-- R98, R101: `CRC.FRAME s` on a readable packet recomputes the trailer and leaves `ACC` and everything but `R` and
`ERR`. -/
def Obligations.CrcFrameResult : Prop :=
  ∀ (b : Buf) (s : State), Readable s b →
    ∃ t, exec (.crcFrame b) s = .next t ∧ ChangesOnlyR s t ∧ t.err = .none ∧
      t.r.toNat = (crc16 s.cfg s.variant ((List.range (s.len b - 2)).map (readByte s b))).toNat

/-! ## Reply-length ROM -/

/-- R111, R110: `LEN.RESOLVE` of each of the eight configured codes. -/
def Obligations.LenResolveResult : Prop :=
  ∀ s : State, s.cfg.codesDistinct →
    ∀ p ∈ [(s.cfg.cmdReadTime, 7), (s.cfg.cmdReadPower, 4), (s.cfg.cmdReadCounters, 16), (s.cfg.cmdReadBattery, 2),
        (s.cfg.cmdReadTariffs, 1), (s.cfg.cmdReadTariff, 1), (s.cfg.cmdReadUip, 7), (s.cfg.cmdReadLineParams, 10)],
      exec (.lenResolve p.1) s = .next { s with r := p.2, err := .none }

/-- R186: `LEN.RESOLVE` of any other code faults with `UnsupportedCommand`. -/
def Obligations.LenResolveUnknownCodeFaults : Prop :=
  ErrCode.unsupportedCommand.bits = 2 ∧
  ∀ (s : State) (c : Byte),
    c ∉ [s.cfg.cmdReadTime, s.cfg.cmdReadPower, s.cfg.cmdReadCounters, s.cfg.cmdReadBattery,
        s.cfg.cmdReadTariffs, s.cfg.cmdReadTariff, s.cfg.cmdReadUip, s.cfg.cmdReadLineParams] →
      exec (.lenResolve c) s = .next { s with err := .unsupportedCommand }

/-! ## Framer and deframer -/

/-- R121: `FRM.HDR c, a` from every state: the five header bytes, `TXLEN = 5`, `SEALED` and `V[TX]` clear; every other
byte and everything else as before. -/
def Obligations.FrmHdrResult : Prop :=
  ∀ (c : Byte) (a : Word) (s : State),
    ∃ t, exec (.frmHdr c a) s = .next t ∧ t = { s with tx := t.tx, isSealed := false, err := .none } ∧
      t.len .tx = 5 ∧ t.tx.valid = false ∧
      (readByte t .tx 0).toNat = a.toNat / 2 ^ 24 ∧ (readByte t .tx 1).toNat = a.toNat / 2 ^ 16 % 256 ∧
      (readByte t .tx 2).toNat = a.toNat / 2 ^ 8 % 256 ∧ (readByte t .tx 3).toNat = a.toNat % 256 ∧
      readByte t .tx 4 = c ∧
      (∀ j, 5 ≤ j → readByte t .tx j = readByte s .tx j) ∧ ∀ j, readByte t .rx j = readByte s .rx j

/-- R122: `FRM.PAY x` on an open packet with room: the byte at the old `TXLEN`, `TXLEN` one more, `V[TX]` clear; every
other byte and everything else as before. -/
def Obligations.FrmPayResult : Prop :=
  ∀ (x : Byte) (s : State), OpenPacket s → s.len .tx < 21 →
    ∃ t, exec (.frmPay x) s = .next t ∧ t = { s with tx := t.tx, err := .none } ∧
      t.len .tx = s.len .tx + 1 ∧ t.tx.valid = false ∧ readByte t .tx (s.len .tx) = x ∧
      (∀ j, j ≠ s.len .tx → readByte t .tx j = readByte s .tx j) ∧ ∀ j, readByte t .rx j = readByte s .rx j

/-- R123, R33, R101: `FRM.SEAL` on an open packet with room for its trailer: the two trailer bytes, the more significant
first, `TXLEN` two more, `SEALED` set, `V[TX]` clear; every other byte, `ACC` and everything else as before. -/
def Obligations.FrmSealResult : Prop :=
  ∀ s : State, OpenPacket s → s.len .tx ≤ 21 →
    ∃ t, exec .frmSeal s = .next t ∧ t = { s with tx := t.tx, isSealed := true, err := .none } ∧
      t.len .tx = s.len .tx + 2 ∧ t.tx.valid = false ∧
      256 * (readByte t .tx (s.len .tx)).toNat + (readByte t .tx (s.len .tx + 1)).toNat =
        (crc16 s.cfg s.variant ((List.range (s.len .tx)).map (readByte s .tx))).toNat ∧
      (∀ j, j ≠ s.len .tx → j ≠ s.len .tx + 1 → readByte t .tx j = readByte s .tx j) ∧
      ∀ j, readByte t .rx j = readByte s .rx j

/-- R194: `FRM.PAY` and `FRM.SEAL` without an open packet, and every packet-level operation on an unsealed request, fault
with `FrameState` and change nothing but `ERR`. -/
def Obligations.FrameStateFaults : Prop :=
  ErrCode.frameState.bits = 10 ∧
  ∀ (x k : Byte) (s : State),
    (s.len .tx = 0 ∨ s.isSealed = true →
      exec (.frmPay x) s = .next { s with err := .frameState } ∧
      exec .frmSeal s = .next { s with err := .frameState }) ∧
    (s.isSealed = false →
      ∀ i ∈ [Instr.pktCheck .tx, .crcFrame .tx, .getAddr .tx, .getCmd .tx, .getCrc .tx, .getB .tx k, .getH .tx k,
          .getT .tx k, .getW .tx k, .getDt .tx k],
        exec i s = .next { s with err := .frameState })

/-- R124: `DFR.CLR` empties the reply packet; no byte changes. -/
def Obligations.DfrClrResult : Prop :=
  ∀ s : State,
    ∃ t, exec .dfrClr s = .next t ∧ t = { s with rx := t.rx, err := .none } ∧
      t.len .rx = 0 ∧ t.rx.valid = false ∧ KeepsBytes s t

/-- R125: `DFR.PUSH x` with room: the byte at the old `RXLEN`, `RXLEN` one more, `V[RX]` clear; every other byte and
everything else as before. -/
def Obligations.DfrPushResult : Prop :=
  ∀ (x : Byte) (s : State), s.len .rx < 23 →
    ∃ t, exec (.dfrPush x) s = .next t ∧ t = { s with rx := t.rx, err := .none } ∧
      t.len .rx = s.len .rx + 1 ∧ t.rx.valid = false ∧ readByte t .rx (s.len .rx) = x ∧
      (∀ j, j ≠ s.len .rx → readByte t .rx j = readByte s .rx j) ∧ ∀ j, readByte t .tx j = readByte s .tx j

/-- R189: a byte that does not fit is dropped: `FRM.PAY` on an open packet without room, `DFR.PUSH` into a full buffer. -/
def Obligations.FrameOverflowDropsTheByte : Prop :=
  ErrCode.frameOverflow.bits = 5 ∧
  ∀ (x : Byte) (s : State),
    (OpenPacket s → 21 ≤ s.len .tx → exec (.frmPay x) s = .next { s with err := .frameOverflow }) ∧
    (s.len .rx = 23 → exec (.dfrPush x) s = .next { s with err := .frameOverflow })

/-- R126, R99: `PKT.CHECK s` on a readable packet: `V[s]`, `R` and `ERR` say whether the recomputed trailer equals the
stored one; no byte, length or other register changes. -/
def Obligations.PktCheckResult : Prop :=
  ErrCode.corruptReply.bits = 3 ∧
  ∀ (b : Buf) (s : State), Readable s b →
    ∃ t ok, exec (.pktCheck b) s = .next t ∧
      (ok = true ↔
        (crc16 s.cfg s.variant ((List.range (s.len b - 2)).map (readByte s b))).toNat =
          256 * (readByte s b (s.len b - 2)).toNat + (readByte s b (s.len b - 1)).toNat) ∧
      t = { s.setBuf b { s.buf b with valid := ok } with
            r := if ok then 1 else 0, err := if ok then .none else .corruptReply } ∧
      KeepsBytes s t

/-- R127, R191: `BUF.RD s, i` reads the raw byte below the length, sealed or not, valid or not, and faults with `BufRange`
at or above it. -/
def Obligations.BufRdResult : Prop :=
  ErrCode.bufRange.bits = 7 ∧
  ∀ (b : Buf) (i : Byte) (s : State),
    (i.toNat < s.len b → ∃ t, exec (.bufRd b i) s = .next t ∧ ChangesOnlyR s t ∧ t.err = .none ∧
      t.r.toNat = (readByte s b i.toNat).toNat) ∧
    (s.len b ≤ i.toNat → exec (.bufRd b i) s = .next { s with err := .bufRange })

/-- R140, R195: `PKT.CHECK`, `CRC.FRAME` and every accessor fault with `FrameState` on an unsealed request, else with
`FrameTooShort` below seven bytes, else (payload accessors) with `FieldRange` outside the payload; a fault changes nothing
but `ERR`. -/
def Obligations.PacketChecksComeInOrder : Prop :=
  ErrCode.frameTooShort.bits = 4 ∧ ErrCode.fieldRange.bits = 6 ∧
  ∀ (b : Buf) (k : Byte) (s : State),
    (∀ i ∈ [Instr.pktCheck b, .crcFrame b, .getAddr b, .getCmd b, .getCrc b, .getB b k, .getH b k, .getT b k, .getW b k,
        .getDt b k],
      (b = .tx → s.isSealed = false → exec i s = .next { s with err := .frameState }) ∧
      ((b = .tx → s.isSealed = true) → s.len b < 7 → exec i s = .next { s with err := .frameTooShort })) ∧
    ∀ p ∈ [(Instr.getB b k, 1), (.getH b k, 2), (.getT b k, 3), (.getW b k, 4), (.getDt b k, 7)],
      Readable s b → s.len b - 2 < 5 + k.toNat + p.2 → exec p.1 s = .next { s with err := .fieldRange }

/-! ## Accessors -/

/-- R141, R142, R143: the envelope fields of a readable packet. -/
def Obligations.EnvelopeFieldsResult : Prop :=
  ∀ (b : Buf) (s : State), Readable s b →
    (∃ t, exec (.getAddr b) s = .next t ∧ ChangesOnlyR s t ∧ t.err = .none ∧
      t.r.toNat = 2 ^ 24 * (readByte s b 0).toNat + 2 ^ 16 * (readByte s b 1).toNat +
        2 ^ 8 * (readByte s b 2).toNat + (readByte s b 3).toNat) ∧
    (∃ t, exec (.getCmd b) s = .next t ∧ ChangesOnlyR s t ∧ t.err = .none ∧
      t.r.toNat = (readByte s b 4).toNat) ∧
    (∃ t, exec (.getCrc b) s = .next t ∧ ChangesOnlyR s t ∧ t.err = .none ∧
      t.r.toNat = 256 * (readByte s b (s.len b - 2)).toNat + (readByte s b (s.len b - 1)).toNat)

/-- R144, R145, R146: the one-, two- and four-byte fields inside the payload, at any offset. -/
def Obligations.PayloadFieldsResult : Prop :=
  ∀ (b : Buf) (k : Byte) (s : State),
    (FieldInside s b k.toNat 1 → ∃ t, exec (.getB b k) s = .next t ∧ ChangesOnlyR s t ∧ t.err = .none ∧
      t.r.toNat = (readByte s b (5 + k.toNat)).toNat) ∧
    (FieldInside s b k.toNat 2 → ∃ t, exec (.getH b k) s = .next t ∧ ChangesOnlyR s t ∧ t.err = .none ∧
      t.r.toNat = 256 * (readByte s b (5 + k.toNat)).toNat + (readByte s b (6 + k.toNat)).toNat) ∧
    (FieldInside s b k.toNat 4 → ∃ t, exec (.getW b k) s = .next t ∧ ChangesOnlyR s t ∧ t.err = .none ∧
      t.r.toNat = 2 ^ 24 * (readByte s b (5 + k.toNat)).toNat + 2 ^ 16 * (readByte s b (6 + k.toNat)).toNat +
        2 ^ 8 * (readByte s b (7 + k.toNat)).toNat + (readByte s b (8 + k.toNat)).toNat)

/-- R148, R34: the triple inside the payload, under both layouts. -/
def Obligations.TripleResult : Prop :=
  ∀ (b : Buf) (k : Byte) (s : State), FieldInside s b k.toNat 3 →
    ∃ t, exec (.getT b k) s = .next t ∧ ChangesOnlyR s t ∧ t.err = .none ∧
      (s.cfg.tripleLayout = .segmentLe →
        t.r.toNat = 2 ^ 16 * (readByte s b (7 + k.toNat)).toNat + 2 ^ 8 * (readByte s b (5 + k.toNat)).toNat +
          (readByte s b (6 + k.toNat)).toNat) ∧
      (s.cfg.tripleLayout = .bigEndian →
        t.r.toNat = 2 ^ 16 * (readByte s b (5 + k.toNat)).toNat + 2 ^ 8 * (readByte s b (6 + k.toNat)).toNat +
          (readByte s b (7 + k.toNat)).toNat)

/-- R149: the date-time record inside the payload: the six registers from bytes 1 to 6, the weekday byte not looked at;
`R`, every byte and everything else as before. -/
def Obligations.GetDtResult : Prop :=
  ∀ (b : Buf) (k : Byte) (s : State), FieldInside s b k.toNat 7 →
    ∃ t, exec (.getDt b k) s = .next t ∧ t = { s with dt := t.dt, err := t.err } ∧ KeepsBytes s t ∧
      (∀ p ∈ [(1, t.dt.hour.toNat), (2, t.dt.min.toNat), (3, t.dt.sec.toNat), (4, t.dt.day.toNat),
          (5, t.dt.mon.toNat), (6, t.dt.year.toNat - 2000)],
        p.2 = (readByte s b (5 + k.toNat + p.1)).toNat / 16 * 10 + (readByte s b (5 + k.toNat + p.1)).toNat % 16) ∧
      2000 ≤ t.dt.year.toNat ∧
      (t.err = .none ∨ t.err = .bcdDigit) ∧
      (t.err = .bcdDigit ↔ ∃ j ∈ [1, 2, 3, 4, 5, 6],
        9 < (readByte s b (5 + k.toNat + j)).toNat / 16 ∨ 9 < (readByte s b (5 + k.toNat + j)).toNat % 16)

/-- R47: reads of different widths see the same byte. -/
def Obligations.MixedWidthsSeeTheSameByte : Prop :=
  ∀ (b : Buf) (k : Byte) (s t : State), exec (.getB b k) s = .next t → t.err = .none →
    t.r = (readByte s b (5 + k.toNat)).setWidth 32 ∧
    (∀ u, exec (.getH b k) s = .next u → u.err = .none → u.r.extractLsb' 8 8 = t.r.extractLsb' 0 8) ∧
    (∀ u, exec (.getW b k) s = .next u → u.err = .none → u.r.extractLsb' 24 8 = t.r.extractLsb' 0 8) ∧
    (s.cfg.tripleLayout = .segmentLe →
      ∀ u, exec (.getT b k) s = .next u → u.err = .none → u.r.extractLsb' 8 8 = t.r.extractLsb' 0 8)

/-! ## Wire frames -/

/-- R52, R55, R57: each request frame leaves the sealed seven-byte request in `TXB`, its trailer the CRC of the five bytes
before it; every other byte and everything else as before. That presenting a request frame runs `REQUEST` is the model's
choice (notes/assumptions/5.md). -/
def Obligations.RequestFrameResult : Prop :=
  ∀ (a : Word) (s : State),
    ∀ p ∈ [(Instr.frameReqReadTime a, s.cfg.cmdReadTime), (.frameReqReadPower a, s.cfg.cmdReadPower),
        (.frameReqReadCounters a, s.cfg.cmdReadCounters), (.frameReqReadBattery a, s.cfg.cmdReadBattery),
        (.frameReqReadTariffs a, s.cfg.cmdReadTariffs), (.frameReqReadTariff a, s.cfg.cmdReadTariff),
        (.frameReqReadUip a, s.cfg.cmdReadUip), (.frameReqReadLineParams a, s.cfg.cmdReadLineParams)],
      ∃ t, exec p.1 s = .next t ∧ t = { s with tx := t.tx, isSealed := true, err := .none } ∧
        t.len .tx = 7 ∧ t.tx.valid = false ∧
        2 ^ 24 * (readByte t .tx 0).toNat + 2 ^ 16 * (readByte t .tx 1).toNat + 2 ^ 8 * (readByte t .tx 2).toNat +
          (readByte t .tx 3).toNat = a.toNat ∧
        readByte t .tx 4 = p.2 ∧
        256 * (readByte t .tx 5).toNat + (readByte t .tx 6).toNat =
          (crc16 s.cfg s.variant ((List.range 5).map (readByte t .tx))).toNat ∧
        (∀ j, 7 ≤ j → readByte t .tx j = readByte s .tx j) ∧ ∀ j, readByte t .rx j = readByte s .rx j

/-- R53, R110: each reply frame of the ROM's payload length leaves its bytes in `RXB` as they arrived: address, command,
payload, trailer; every other byte and everything else as before. That presenting a reply frame runs `RECV` is the model's
choice (notes/assumptions/5.md). -/
def Obligations.ReplyFrameResult : Prop :=
  ∀ (a : Word) (p : List Byte) (k : Half) (s : State),
    ∀ q ∈ [(Instr.frameRepReadTime a p k, s.cfg.cmdReadTime, 7), (.frameRepReadPower a p k, s.cfg.cmdReadPower, 4),
        (.frameRepReadCounters a p k, s.cfg.cmdReadCounters, 16), (.frameRepReadBattery a p k, s.cfg.cmdReadBattery, 2),
        (.frameRepReadTariffs a p k, s.cfg.cmdReadTariffs, 1), (.frameRepReadTariff a p k, s.cfg.cmdReadTariff, 1),
        (.frameRepReadUip a p k, s.cfg.cmdReadUip, 7), (.frameRepReadLineParams a p k, s.cfg.cmdReadLineParams, 10)],
      p.length = q.2.2 →
      ∃ t, exec q.1 s = .next t ∧ t = { s with rx := t.rx, err := .none } ∧
        t.len .rx = q.2.2 + 7 ∧ t.rx.valid = false ∧
        2 ^ 24 * (readByte t .rx 0).toNat + 2 ^ 16 * (readByte t .rx 1).toNat + 2 ^ 8 * (readByte t .rx 2).toNat +
          (readByte t .rx 3).toNat = a.toNat ∧
        readByte t .rx 4 = q.2.1 ∧
        (∀ j, j < q.2.2 → p[j]? = some (readByte t .rx (5 + j))) ∧
        256 * (readByte t .rx (q.2.2 + 5)).toNat + (readByte t .rx (q.2.2 + 6)).toNat = k.toNat ∧
        (∀ j, q.2.2 + 7 ≤ j → readByte t .rx j = readByte s .rx j) ∧ ∀ j, readByte t .tx j = readByte s .tx j

/-- R68: a wire frame presented gives exactly the state of the operations it stands for, issued one by one (the model's
choice of what it stands for: notes/assumptions/5.md). -/
def Obligations.WireFramesAreTheirOperations : Prop :=
  ∀ (c : Command) (a : Word) (p : List Byte) (k : Half) (s : State),
    exec (.request c a) s = runOps [.frmHdr (s.cfg.code c) a, .frmSeal] s ∧
    exec (.reply c a p k) s = runOps (.dfrClr :: (replyBytes s.cfg c a p k).map .dfrPush) s

/-! ## Laws of the codec -/

/-- R128: the round-trip law: what `BUILD` encodes, the accessors recover from `TXB`; and from `RXB` after the bytes that
`BUF.RD TX, 0 ..` gives are pushed there. -/
def Obligations.PacketRoundTrip : Prop :=
  ∀ (c : Byte) (a : Word) (p : List Byte) (s : State), p.length ≤ 16 →
    ∃ t bytes w u, runPseudo (.build c a p) s = .next t ∧ t.len .tx = p.length + 7 ∧
      sendBytes t = .next (bytes, w) ∧ runPseudo (.recv bytes) w = .next u ∧
      ∀ q ∈ [(Buf.tx, t), (Buf.rx, u)],
        (∃ x, exec (.getAddr q.1) q.2 = .next x ∧ x.r = a ∧ x.err = .none) ∧
        (∃ x, exec (.getCmd q.1) q.2 = .next x ∧ x.r = c.setWidth 32 ∧ x.err = .none) ∧
        ∀ j y, p[j]? = some y →
          ∃ x, exec (.getB q.1 (BitVec.ofNat 8 j)) q.2 = .next x ∧ x.r = y.setWidth 32 ∧ x.err = .none

/-- R129: `PKT.CHECK TX` finds every packet that `BUILD` makes valid, however many payload bytes it was given (those that
do not fit are dropped), under both variants and every polynomial. -/
def Obligations.BuiltPacketIsValid : Prop :=
  ∀ (c : Byte) (a : Word) (p : List Byte) (s : State),
    ∃ t u, runPseudo (.build c a p) s = .next t ∧ exec (.pktCheck .tx) t = .next u ∧
      u.r = 1 ∧ u.tx.valid = true ∧ u.err = .none

/-- R131, R100: a copy in `RXB` of a built packet with exactly one bit changed, anywhere in it, is found corrupt. -/
def Obligations.SingleBitErrorIsDetected : Prop :=
  ∀ (c : Byte) (a : Word) (p : List Byte) (s t : State) (m k : Nat),
    s.cfg.polyA.getLsbD 15 = true → s.cfg.polyB.getLsbD 0 = true →
    runPseudo (.build c a p) s = .next t → m < t.len .tx → k < 8 →
      ∃ u x, runPseudo (.recv ((readBytes t .tx 0 (t.len .tx)).set m (readByte t .tx m ^^^ BitVec.ofNat 8 (2 ^ k)))) t =
          .next u ∧
        exec (.pktCheck .rx) u = .next x ∧ x.r = 0 ∧ x.rx.valid = false ∧ x.err = .corruptReply

/-! ## Layouts and the host's transaction -/

/-- R160, R170, R232: every field of a command's layout lies inside a reply of the ROM's length, so the sequence that reads
it meets no fault. The host extracts nothing while `V[RX]` is clear; from a reply that `PKT.CHECK` found valid it extracts
every field of the layout, in order, without a fault and without touching the reply; a transaction delivers fields only
when it ends validated, and then all of them. The model's choices here: that a reply frame presented runs `RECV`
(notes/assumptions/5.md), the channel record (notes/assumptions/10.md), and that the host extracts all fields, in table
order, going on after a flagged one (DESIGN CHOICE, notes/assumptions/14.md). -/
def Obligations.LayoutFieldsAreReadable : Prop :=
  (∀ (c : Command) (a : Word) (p : List Byte) (k : Half) (s t : State) (f : PayloadField),
    p.length = replyPayload c → exec (.reply c a p k) s = .next t → f ∈ layout c →
      ∃ u, readField f t = .next u ∧ u.err.isFault = false) ∧
  (∀ (c : Command) (s : State), s.rx.valid = false → extractReply c s = .next ([], s)) ∧
  (∀ (c : Command) (a : Word) (p : List Byte) (k : Half) (s t u : State),
    p.length = replyPayload c → exec (.reply c a p k) s = .next t → exec (.pktCheck .rx) t = .next u → u.r = 1 →
      ∃ out w, extractReply c u = .next (out, w) ∧ out.map FieldResult.quantity = (layout c).map PayloadField.quantity ∧
        (∀ x ∈ out, x.err.isFault = false) ∧ w.rx = u.rx) ∧
  ∀ (ch : Channel) (c : Byte) (a : Word) (s : State) (d : Delivery), transactAndExtract ch c a s = .next d →
    (d.report.outcome ≠ .validated → d.fields = []) ∧
    ∀ cmd, d.report.outcome = .validated → commandOf s.cfg c = some cmd →
      d.fields.map FieldResult.quantity = (layout cmd).map PayloadField.quantity ∧
        ∀ x ∈ d.fields, x.err.isFault = false

/-- R216, R217, R221: a transaction owes the settling delay exactly when it wrote to the transport, and it writes nothing
exactly when the channel is detached or the command is unsupported. -/
def Obligations.SettlingDelayIsOwedAfterAWrite : Prop :=
  ∀ (ch : Channel) (c : Byte) (a : Word) (s : State) (rep : TxReport),
    executeTransaction ch c a s = .next rep →
      (rep.written = none ↔ rep.outcome = .channelUnavailable ∨ rep.outcome = .unsupportedCommand) ∧
      (rep.outcome = .channelUnavailable ↔ ch.attached = false) ∧
      (rep.written = none → rep.settleOwed = 0) ∧ (rep.written ≠ none → rep.settleOwed = s.cfg.settleMs)

/-- R217 to R222: a transaction that ends validated wrote, once, the request frame of its command and address (the seven
bytes that stand in `TXB`) and left in `RXB` a reply of exactly the resolved length with `V[RX]` set and a matching
trailer. -/
def Obligations.ValidatedTransactionHoldsAValidReply : Prop :=
  ∀ (ch : Channel) (c : Byte) (a : Word) (s : State) (rep : TxReport),
    executeTransaction ch c a s = .next rep → rep.outcome = .validated →
      ∃ cmd, commandOf s.cfg c = some cmd ∧ s.cfg.code cmd = c ∧ rep.block.len .rx = replyPayload cmd + 7 ∧
        rep.block.rx.valid = true ∧ packetTrailer rep.block .rx = recomputedTrailer rep.block .rx ∧
        rep.written = some (requestBytes s.cfg s.variant cmd a) ∧
        rep.written = some (readBytes rep.block .tx 0 7)
end

