-- ==== Sys2Proof/Laws/Decode.lean ====
section
/-! SUPPORT. The fields of an encoded operation word, and the bytes of an address and a trailer put together again. -/

namespace Sys2Proof

open Machine

/-- The fields of a word built from fields are those fields. -/
@[simp] theorem fieldsOf_opWord (o : BitVec 5) (s : BitVec 1) (a : Byte) (d : Word) :
    fieldsOf (opWord o s a d) = { opsel := o, reserved := 0, s := s, a := a, d := d } := by
  unfold fieldsOf opWord
  congr 1 <;> ext i hi <;>
    simp [BitVec.getElem_extractLsb'] <;> grind

@[simp] theorem bufOf_selBit (b : Buf) : bufOf (selBit b) = b := by cases b <;> rfl

/-- The four address bytes make the address (R55). -/
@[simp] theorem be32_wordBytes (a : Word) :
    be32 (a.extractLsb' 24 8) (a.extractLsb' 16 8) (a.extractLsb' 8 8) (a.extractLsb' 0 8) = a := by
  unfold be32
  ext i hi
  simp
  grind

/-- The two trailer bytes make the trailer (R57). -/
@[simp] theorem be16_halfBytes (t : Half) : be16 (t.extractLsb' 8 8) (t.extractLsb' 0 8) = t := by
  unfold be16
  ext i hi
  simp
  grind

/-- The bits of a half made of two bytes (R9). -/
theorem be16_getLsbD (x y : Byte) (i : Nat) :
    (be16 x y).getLsbD i = if i < 8 then y.getLsbD i else x.getLsbD (i - 8) := BitVec.getLsbD_append

/-- Two bytes are the trailer bytes of the half they make (R57). -/
@[simp] theorem halfBytes_be16 (x y : Byte) : halfBytes (be16 x y) = [x, y] := by
  unfold halfBytes
  congr 1
  · ext i hi
    simp [be16_getLsbD, BitVec.getLsbD_eq_getElem hi]
  · congr 1
    ext i hi
    simp [be16_getLsbD, hi]

/-- A half made of two bytes as a number (R9). -/
theorem be16_toNat (x y : Byte) : (be16 x y).toNat = 256 * x.toNat + y.toNat := by
  have := y.isLt
  simp only [be16, BitVec.toNat_append]
  rw [← Nat.shiftLeft_add_eq_or_of_lt (by omega), Nat.shiftLeft_eq]
  omega

/-- A word made of four bytes as a number (R9). -/
theorem be32_toNat (x y z w : Byte) :
    (be32 x y z w).toNat = 2 ^ 24 * x.toNat + 2 ^ 16 * y.toNat + 2 ^ 8 * z.toNat + w.toNat := by
  have hz := z.isLt
  have hw := w.isLt
  have e1 := be16_toNat x y
  have e2 := be16_toNat z w
  simp only [be16] at e1 e2
  simp only [be32, BitVec.toNat_append (n := 8 + 8) (m := 8 + 8), e1, e2]
  rw [← Nat.shiftLeft_add_eq_or_of_lt (by omega), Nat.shiftLeft_eq]
  omega

@[simp] theorem wordBytes_length (a : Word) : (wordBytes a).length = 4 := rfl

@[simp] theorem halfBytes_length (t : Half) : (halfBytes t).length = 2 := rfl

/-- The code of a command is found again when the codes are pairwise different (R56). -/
theorem commandOf_code {cfg : Config} (h : cfg.codesDistinct) (c : Command) : commandOf cfg (cfg.code c) = some c := by
  have hinj : ∀ a ∈ Command.all, ∀ b ∈ Command.all, cfg.code a = cfg.code b → a = b :=
    fun a ha b hb hab => List.inj_on_of_nodup_map h ha hb hab
  have hall : ∀ k : Command, k ∈ Command.all := by intro k; cases k <;> decide
  have hsome : (Command.all.find? fun k => cfg.code k == cfg.code c).isSome :=
    List.find?_isSome.mpr ⟨c, hall c, by simp⟩
  obtain ⟨k, hk⟩ := Option.isSome_iff_exists.mp hsome
  have hk' := List.find?_some hk
  rw [beq_iff_eq] at hk'
  unfold commandOf
  rw [hk, hinj k (hall k) c (hall c) hk']

end Sys2Proof
end

