-- ==== Sys2Proof/Laws/Layout.lean ====
section
/-! SUPPORT. What reading the fields of a layout can do. -/

namespace Sys2Proof.Machine

@[simp] theorem readFields_nil (s : State) : readFields [] s = .next ([], s) := rfl

/-- A first field is read and its result kept, then the rest are read from the state it left. -/
theorem readFields_cons {f : PayloadField} {fs : List PayloadField} {s t u : State} {out : List FieldResult}
    (h : readField f s = .next t) (hs : readFields fs t = .next (out, u)) :
    readFields (f :: fs) s = .next (fieldResult f t :: out, u) := by
  simp [readFields, h, hs, andThen]

@[simp] theorem fieldResult_quantity (f : PayloadField) (s : State) : (fieldResult f s).quantity = f.quantity := rfl
@[simp] theorem fieldResult_err (f : PayloadField) (s : State) : (fieldResult f s).err = s.err := rfl

/-- A value is delivered only without an error. -/
theorem fieldResult_value (f : PayloadField) (s : State) (h : s.err ≠ .none) : (fieldResult f s).value = none :=
  if_neg h

/-- With `V[RX]` set, extracting a reply is reading its layout (R232). -/
theorem extractReply_checked (c : Command) {s : State} (h : s.rx.valid = true) :
    extractReply c s = readFields (layout c) s := if_pos h

end Sys2Proof.Machine
end

