-- ==== Sys2Proof/Laws/Memory.lean ====
section
/-! SUPPORT. Reads after writes, and that every memory operation keeps the canonical form. -/

namespace Sys2Proof.Machine

@[simp] theorem Memory.read_nil (a : Nat) : Memory.read [] a = none := rfl

theorem Memory.read_cons (x : Nat) (v : Byte) (m : Memory) (a : Nat) :
    Memory.read ((x, v) :: m) a = if x = a then some v else Memory.read m a := rfl

/-- A write is what that index then holds, and no other index changes. -/
theorem Memory.read_write (m : Memory) (a : Nat) (b : Byte) (i : Nat) :
    (m.write a b).read i = if a = i then some b else m.read i := by
  induction m with
  | nil => rfl
  | cons c m ih =>
    obtain ⟨x, v⟩ := c
    unfold Memory.write
    split
    · rfl
    · split
      · subst a
        simp only [Memory.read_cons]
        split <;> rfl
      · simp only [Memory.read_cons, ih]
        by_cases hx : x = i
        · simp only [hx, if_true]
          rw [if_neg (by omega)]
        · simp only [hx, if_false]

/-- A run of bytes is what those indexes then hold, and no other index changes. -/
theorem Memory.read_writeList (bs : List Byte) : ∀ (m : Memory) (a i : Nat),
    (m.writeList a bs).read i = if a ≤ i ∧ i < a + bs.length then bs[i - a]? else m.read i := by
  induction bs with
  | nil =>
    intro m a i
    rw [if_neg (by simp)]
    rfl
  | cons b bs ih =>
    intro m a i
    simp only [Memory.writeList, ih, Memory.read_write, List.length_cons]
    by_cases h : a = i
    · subst h
      simp
    · by_cases h' : a + 1 ≤ i ∧ i < a + 1 + bs.length
      · rw [if_pos h', if_pos (by omega), show i - a = (i - (a + 1)) + 1 by omega]
        rfl
      · rw [if_neg h', if_neg h, if_neg (by omega)]

theorem Memory.mem_write {m : Memory} {a : Nat} {b : Byte} {c : Host.Cell} (h : c ∈ m.write a b) :
    c = (a, b) ∨ c ∈ m := by
  induction m with
  | nil => exact .inl (by simpa [Memory.write] using h)
  | cons d m ih =>
    obtain ⟨x, v⟩ := d
    unfold Memory.write at h
    split at h
    · simpa using h
    · split at h
      · rcases List.mem_cons.mp h with h | h
        · exact .inl h
        · exact .inr (List.mem_cons_of_mem _ h)
      · rcases List.mem_cons.mp h with h | h
        · exact .inr (h ▸ List.mem_cons_self)
        · exact (ih h).imp_right (List.mem_cons_of_mem _)

/-- A write inside the buffer keeps the canonical form. -/
theorem Memory.write_wf {m : Memory} (h : m.wf) {a : Nat} (ha : a < frameMax) (b : Byte) : (m.write a b).wf := by
  refine ⟨?_, fun c hc => (Memory.mem_write hc).elim (fun e => e ▸ ha) (h.2 c)⟩
  have hs := h.1
  clear h
  induction m with
  | nil => simp [Memory.write]
  | cons d m ih =>
    obtain ⟨x, v⟩ := d
    rw [List.map_cons, List.pairwise_cons] at hs
    unfold Memory.write
    split
    · rename_i hlt
      simp only [List.map_cons, List.pairwise_cons, List.mem_cons, forall_eq_or_imp]
      exact ⟨⟨hlt, fun y hy => lt_trans hlt (hs.1 y hy)⟩, hs.1, hs.2⟩
    · split
      · rename_i heq
        subst heq
        simpa using hs
      · rename_i hge hne
        simp only [List.map_cons, List.pairwise_cons]
        refine ⟨fun y hy => ?_, ih hs.2⟩
        obtain ⟨c, hc, rfl⟩ := List.mem_map.mp hy
        rcases Memory.mem_write hc with rfl | hc
        · exact lt_of_le_of_ne (Nat.le_of_not_lt hge) (Ne.symm hne)
        · exact hs.1 _ (List.mem_map_of_mem hc)

/-- A run of bytes inside the buffer keeps the canonical form. -/
theorem Memory.writeList_wf (bs : List Byte) : ∀ {m : Memory} (_ : m.wf) {a : Nat} (_ : a + bs.length ≤ frameMax),
    (m.writeList a bs).wf := by
  induction bs with
  | nil => exact fun h _ _ => h
  | cons b bs ih =>
    intro m h a ha
    rw [List.length_cons] at ha
    exact ih (Memory.write_wf h (by omega) b) (by omega)

theorem Memory.nil_wf : Memory.wf [] := by simp [Memory.wf]

end Sys2Proof.Machine
end

