-- ==== Sys2Proof/Laws/State.lean ====
section
/-! SUPPORT. One lemma per field per update of `State`, so that no proof unfolds a record update. -/

namespace Sys2Proof.Machine

variable (s : State)

@[simp] theorem State.setR_r (v : Word) : (s.setR v).r = v := rfl
@[simp] theorem State.setR_dt (v : Word) : (s.setR v).dt = s.dt := rfl
@[simp] theorem State.setR_acc (v : Word) : (s.setR v).acc = s.acc := rfl
@[simp] theorem State.setR_tx (v : Word) : (s.setR v).tx = s.tx := rfl
@[simp] theorem State.setR_rx (v : Word) : (s.setR v).rx = s.rx := rfl
@[simp] theorem State.setR_isSealed (v : Word) : (s.setR v).isSealed = s.isSealed := rfl
@[simp] theorem State.setR_err (v : Word) : (s.setR v).err = s.err := rfl
@[simp] theorem State.setR_variant (v : Word) : (s.setR v).variant = s.variant := rfl
@[simp] theorem State.setR_cfg (v : Word) : (s.setR v).cfg = s.cfg := rfl
@[simp] theorem State.setR_port (v : Word) : (s.setR v).port = s.port := rfl
@[simp] theorem State.setR_buf (v : Word) (b : Buf) : (s.setR v).buf b = s.buf b := by cases b <;> rfl
@[simp] theorem State.setR_len (v : Word) (b : Buf) : (s.setR v).len b = s.len b := by cases b <;> rfl
@[simp] theorem readByte_setR (v : Word) (b : Buf) (i : Nat) : readByte (s.setR v) b i = readByte s b i := by cases b <;> rfl

@[simp] theorem State.setDt_r (v : DateTime) : (s.setDt v).r = s.r := rfl
@[simp] theorem State.setDt_dt (v : DateTime) : (s.setDt v).dt = v := rfl
@[simp] theorem State.setDt_acc (v : DateTime) : (s.setDt v).acc = s.acc := rfl
@[simp] theorem State.setDt_tx (v : DateTime) : (s.setDt v).tx = s.tx := rfl
@[simp] theorem State.setDt_rx (v : DateTime) : (s.setDt v).rx = s.rx := rfl
@[simp] theorem State.setDt_isSealed (v : DateTime) : (s.setDt v).isSealed = s.isSealed := rfl
@[simp] theorem State.setDt_err (v : DateTime) : (s.setDt v).err = s.err := rfl
@[simp] theorem State.setDt_variant (v : DateTime) : (s.setDt v).variant = s.variant := rfl
@[simp] theorem State.setDt_cfg (v : DateTime) : (s.setDt v).cfg = s.cfg := rfl
@[simp] theorem State.setDt_port (v : DateTime) : (s.setDt v).port = s.port := rfl
@[simp] theorem State.setDt_buf (v : DateTime) (b : Buf) : (s.setDt v).buf b = s.buf b := by cases b <;> rfl
@[simp] theorem State.setDt_len (v : DateTime) (b : Buf) : (s.setDt v).len b = s.len b := by cases b <;> rfl
@[simp] theorem readByte_setDt (v : DateTime) (b : Buf) (i : Nat) : readByte (s.setDt v) b i = readByte s b i := by cases b <;> rfl

@[simp] theorem State.setAcc_r (v : Half) : (s.setAcc v).r = s.r := rfl
@[simp] theorem State.setAcc_dt (v : Half) : (s.setAcc v).dt = s.dt := rfl
@[simp] theorem State.setAcc_acc (v : Half) : (s.setAcc v).acc = v := rfl
@[simp] theorem State.setAcc_tx (v : Half) : (s.setAcc v).tx = s.tx := rfl
@[simp] theorem State.setAcc_rx (v : Half) : (s.setAcc v).rx = s.rx := rfl
@[simp] theorem State.setAcc_isSealed (v : Half) : (s.setAcc v).isSealed = s.isSealed := rfl
@[simp] theorem State.setAcc_err (v : Half) : (s.setAcc v).err = s.err := rfl
@[simp] theorem State.setAcc_variant (v : Half) : (s.setAcc v).variant = s.variant := rfl
@[simp] theorem State.setAcc_cfg (v : Half) : (s.setAcc v).cfg = s.cfg := rfl
@[simp] theorem State.setAcc_port (v : Half) : (s.setAcc v).port = s.port := rfl
@[simp] theorem State.setAcc_buf (v : Half) (b : Buf) : (s.setAcc v).buf b = s.buf b := by cases b <;> rfl
@[simp] theorem State.setAcc_len (v : Half) (b : Buf) : (s.setAcc v).len b = s.len b := by cases b <;> rfl
@[simp] theorem readByte_setAcc (v : Half) (b : Buf) (i : Nat) : readByte (s.setAcc v) b i = readByte s b i := by cases b <;> rfl

@[simp] theorem State.setSealed_r (v : Bool) : (s.setSealed v).r = s.r := rfl
@[simp] theorem State.setSealed_dt (v : Bool) : (s.setSealed v).dt = s.dt := rfl
@[simp] theorem State.setSealed_acc (v : Bool) : (s.setSealed v).acc = s.acc := rfl
@[simp] theorem State.setSealed_tx (v : Bool) : (s.setSealed v).tx = s.tx := rfl
@[simp] theorem State.setSealed_rx (v : Bool) : (s.setSealed v).rx = s.rx := rfl
@[simp] theorem State.setSealed_isSealed (v : Bool) : (s.setSealed v).isSealed = v := rfl
@[simp] theorem State.setSealed_err (v : Bool) : (s.setSealed v).err = s.err := rfl
@[simp] theorem State.setSealed_variant (v : Bool) : (s.setSealed v).variant = s.variant := rfl
@[simp] theorem State.setSealed_cfg (v : Bool) : (s.setSealed v).cfg = s.cfg := rfl
@[simp] theorem State.setSealed_port (v : Bool) : (s.setSealed v).port = s.port := rfl
@[simp] theorem State.setSealed_buf (v : Bool) (b : Buf) : (s.setSealed v).buf b = s.buf b := by cases b <;> rfl
@[simp] theorem State.setSealed_len (v : Bool) (b : Buf) : (s.setSealed v).len b = s.len b := by cases b <;> rfl
@[simp] theorem readByte_setSealed (v : Bool) (b : Buf) (i : Nat) : readByte (s.setSealed v) b i = readByte s b i := by cases b <;> rfl

@[simp] theorem State.setErr_r (v : ErrCode) : (s.setErr v).r = s.r := rfl
@[simp] theorem State.setErr_dt (v : ErrCode) : (s.setErr v).dt = s.dt := rfl
@[simp] theorem State.setErr_acc (v : ErrCode) : (s.setErr v).acc = s.acc := rfl
@[simp] theorem State.setErr_tx (v : ErrCode) : (s.setErr v).tx = s.tx := rfl
@[simp] theorem State.setErr_rx (v : ErrCode) : (s.setErr v).rx = s.rx := rfl
@[simp] theorem State.setErr_isSealed (v : ErrCode) : (s.setErr v).isSealed = s.isSealed := rfl
@[simp] theorem State.setErr_err (v : ErrCode) : (s.setErr v).err = v := rfl
@[simp] theorem State.setErr_variant (v : ErrCode) : (s.setErr v).variant = s.variant := rfl
@[simp] theorem State.setErr_cfg (v : ErrCode) : (s.setErr v).cfg = s.cfg := rfl
@[simp] theorem State.setErr_port (v : ErrCode) : (s.setErr v).port = s.port := rfl
@[simp] theorem State.setErr_buf (v : ErrCode) (b : Buf) : (s.setErr v).buf b = s.buf b := by cases b <;> rfl
@[simp] theorem State.setErr_len (v : ErrCode) (b : Buf) : (s.setErr v).len b = s.len b := by cases b <;> rfl
@[simp] theorem readByte_setErr (v : ErrCode) (b : Buf) (i : Nat) : readByte (s.setErr v) b i = readByte s b i := by cases b <;> rfl

@[simp] theorem State.setPort_r (v : List PortEvent) : (s.setPort v).r = s.r := rfl
@[simp] theorem State.setPort_dt (v : List PortEvent) : (s.setPort v).dt = s.dt := rfl
@[simp] theorem State.setPort_acc (v : List PortEvent) : (s.setPort v).acc = s.acc := rfl
@[simp] theorem State.setPort_tx (v : List PortEvent) : (s.setPort v).tx = s.tx := rfl
@[simp] theorem State.setPort_rx (v : List PortEvent) : (s.setPort v).rx = s.rx := rfl
@[simp] theorem State.setPort_isSealed (v : List PortEvent) : (s.setPort v).isSealed = s.isSealed := rfl
@[simp] theorem State.setPort_err (v : List PortEvent) : (s.setPort v).err = s.err := rfl
@[simp] theorem State.setPort_variant (v : List PortEvent) : (s.setPort v).variant = s.variant := rfl
@[simp] theorem State.setPort_cfg (v : List PortEvent) : (s.setPort v).cfg = s.cfg := rfl
@[simp] theorem State.setPort_port (v : List PortEvent) : (s.setPort v).port = v := rfl
@[simp] theorem State.setPort_buf (v : List PortEvent) (b : Buf) : (s.setPort v).buf b = s.buf b := by cases b <;> rfl
@[simp] theorem State.setPort_len (v : List PortEvent) (b : Buf) : (s.setPort v).len b = s.len b := by cases b <;> rfl
@[simp] theorem readByte_setPort (v : List PortEvent) (b : Buf) (i : Nat) : readByte (s.setPort v) b i = readByte s b i := by cases b <;> rfl

@[simp] theorem State.setBuf_r (b : Buf) (p : Packet) : (s.setBuf b p).r = s.r := by cases b <;> rfl
@[simp] theorem State.setBuf_dt (b : Buf) (p : Packet) : (s.setBuf b p).dt = s.dt := by cases b <;> rfl
@[simp] theorem State.setBuf_acc (b : Buf) (p : Packet) : (s.setBuf b p).acc = s.acc := by cases b <;> rfl
@[simp] theorem State.setBuf_isSealed (b : Buf) (p : Packet) : (s.setBuf b p).isSealed = s.isSealed := by cases b <;> rfl
@[simp] theorem State.setBuf_err (b : Buf) (p : Packet) : (s.setBuf b p).err = s.err := by cases b <;> rfl
@[simp] theorem State.setBuf_variant (b : Buf) (p : Packet) : (s.setBuf b p).variant = s.variant := by cases b <;> rfl
@[simp] theorem State.setBuf_cfg (b : Buf) (p : Packet) : (s.setBuf b p).cfg = s.cfg := by cases b <;> rfl
@[simp] theorem State.setBuf_port (b : Buf) (p : Packet) : (s.setBuf b p).port = s.port := by cases b <;> rfl
@[simp] theorem State.setBuf_tx_tx (p : Packet) : (s.setBuf .tx p).tx = p := rfl
@[simp] theorem State.setBuf_tx_rx (p : Packet) : (s.setBuf .tx p).rx = s.rx := rfl
@[simp] theorem State.setBuf_rx_tx (p : Packet) : (s.setBuf .rx p).tx = s.tx := rfl
@[simp] theorem State.setBuf_rx_rx (p : Packet) : (s.setBuf .rx p).rx = p := rfl
@[simp] theorem State.buf_tx : s.buf .tx = s.tx := rfl
@[simp] theorem State.buf_rx : s.buf .rx = s.rx := rfl

theorem State.setBuf_buf (b b' : Buf) (p : Packet) : (s.setBuf b p).buf b' = if b' = b then p else s.buf b' := by
  cases b <;> cases b' <;> rfl

@[simp] theorem State.setBuf_buf_same (b : Buf) (p : Packet) : (s.setBuf b p).buf b = p := by cases b <;> rfl

/-- Writing one packet leaves the other alone (R45). -/
theorem State.setBuf_buf_other {b b' : Buf} (h : b' ≠ b) (p : Packet) : (s.setBuf b p).buf b' = s.buf b' := by
  cases b <;> cases b' <;> first | rfl | exact absurd rfl h

@[simp] theorem State.setBuf_setBuf (b : Buf) (p q : Packet) : (s.setBuf b p).setBuf b q = s.setBuf b q := by
  cases b <;> rfl

@[simp] theorem State.setValid_r (b : Buf) (v : Bool) : (s.setValid b v).r = s.r := by cases b <;> rfl
@[simp] theorem State.setValid_dt (b : Buf) (v : Bool) : (s.setValid b v).dt = s.dt := by cases b <;> rfl
@[simp] theorem State.setValid_acc (b : Buf) (v : Bool) : (s.setValid b v).acc = s.acc := by cases b <;> rfl
@[simp] theorem State.setValid_isSealed (b : Buf) (v : Bool) : (s.setValid b v).isSealed = s.isSealed := by cases b <;> rfl
@[simp] theorem State.setValid_err (b : Buf) (v : Bool) : (s.setValid b v).err = s.err := by cases b <;> rfl
@[simp] theorem State.setValid_variant (b : Buf) (v : Bool) : (s.setValid b v).variant = s.variant := by cases b <;> rfl
@[simp] theorem State.setValid_cfg (b : Buf) (v : Bool) : (s.setValid b v).cfg = s.cfg := by cases b <;> rfl
@[simp] theorem State.setValid_port (b : Buf) (v : Bool) : (s.setValid b v).port = s.port := by cases b <;> rfl
@[simp] theorem State.setLen_r (b : Buf) (n : Nat) : (s.setLen b n).r = s.r := by cases b <;> rfl
@[simp] theorem State.setLen_dt (b : Buf) (n : Nat) : (s.setLen b n).dt = s.dt := by cases b <;> rfl
@[simp] theorem State.setLen_acc (b : Buf) (n : Nat) : (s.setLen b n).acc = s.acc := by cases b <;> rfl
@[simp] theorem State.setLen_isSealed (b : Buf) (n : Nat) : (s.setLen b n).isSealed = s.isSealed := by cases b <;> rfl
@[simp] theorem State.setLen_err (b : Buf) (n : Nat) : (s.setLen b n).err = s.err := by cases b <;> rfl
@[simp] theorem State.setLen_variant (b : Buf) (n : Nat) : (s.setLen b n).variant = s.variant := by cases b <;> rfl
@[simp] theorem State.setLen_cfg (b : Buf) (n : Nat) : (s.setLen b n).cfg = s.cfg := by cases b <;> rfl
@[simp] theorem State.setLen_port (b : Buf) (n : Nat) : (s.setLen b n).port = s.port := by cases b <;> rfl
@[simp] theorem State.changed_r (b : Buf) (n : Nat) : (s.changed b n).r = s.r := by cases b <;> rfl
@[simp] theorem State.changed_dt (b : Buf) (n : Nat) : (s.changed b n).dt = s.dt := by cases b <;> rfl
@[simp] theorem State.changed_acc (b : Buf) (n : Nat) : (s.changed b n).acc = s.acc := by cases b <;> rfl
@[simp] theorem State.changed_isSealed (b : Buf) (n : Nat) : (s.changed b n).isSealed = s.isSealed := by cases b <;> rfl
@[simp] theorem State.changed_err (b : Buf) (n : Nat) : (s.changed b n).err = s.err := by cases b <;> rfl
@[simp] theorem State.changed_variant (b : Buf) (n : Nat) : (s.changed b n).variant = s.variant := by cases b <;> rfl
@[simp] theorem State.changed_cfg (b : Buf) (n : Nat) : (s.changed b n).cfg = s.cfg := by cases b <;> rfl
@[simp] theorem State.changed_port (b : Buf) (n : Nat) : (s.changed b n).port = s.port := by cases b <;> rfl

@[simp] theorem State.setValid_len (b b' : Buf) (v : Bool) : (s.setValid b v).len b' = s.len b' := by
  cases b <;> cases b' <;> rfl

@[simp] theorem readByte_setValid (b b' : Buf) (v : Bool) (i : Nat) :
    readByte (s.setValid b v) b' i = readByte s b' i := by
  cases b <;> cases b' <;> rfl

@[simp] theorem readByte_setLen (b b' : Buf) (n i : Nat) : readByte (s.setLen b n) b' i = readByte s b' i := by
  cases b <;> cases b' <;> rfl

@[simp] theorem readByte_changed (b b' : Buf) (n i : Nat) : readByte (s.changed b n) b' i = readByte s b' i := by
  cases b <;> cases b' <;> rfl

@[simp] theorem lenOf_val (n : Nat) : (lenOf n).val = min n frameMax := rfl

/-- Every length register stays inside the buffer (R24, first bullet). -/
theorem State.len_le (b : Buf) : s.len b ≤ frameMax := Nat.le_of_lt_succ (s.buf b).len.isLt

@[simp] theorem State.changed_len_same (b : Buf) (n : Nat) : (s.changed b n).len b = min n frameMax := by
  cases b <;> rfl

theorem State.changed_len_other {b b' : Buf} (h : b' ≠ b) (n : Nat) : (s.changed b n).len b' = s.len b' := by
  cases b <;> cases b' <;> first | rfl | exact absurd rfl h

@[simp] theorem State.changed_valid_same (b : Buf) (n : Nat) : ((s.changed b n).buf b).valid = false := by
  cases b <;> rfl

@[simp] theorem State.changed_bytes (b b' : Buf) (n : Nat) : ((s.changed b n).buf b').bytes = (s.buf b').bytes := by
  cases b <;> cases b' <;> rfl

theorem State.changed_buf_other {b b' : Buf} (h : b' ≠ b) (n : Nat) : (s.changed b n).buf b' = s.buf b' := by
  cases b <;> cases b' <;> first | rfl | exact absurd rfl h

end Sys2Proof.Machine
end

