-- ==== Sys2Proof/Laws/Ops.lean ====
section
/-! SUPPORT. For each shared operation, once, everything it can do. -/

namespace Sys2Proof.Machine

@[simp] theorem andThen_next {α β : Type} (s : α) (f : α → Host.Outcome β Fault Refusal) :
    andThen (.next s) f = f s := rfl

@[simp] theorem andThen_fault {α β : Type} (e : Fault) (f : α → Host.Outcome β Fault Refusal) :
    andThen (.fault e) f = .fault e := rfl

/-- A sequence that goes on went on at each part. -/
theorem andThen_eq_next {α β : Type} {o : Host.Outcome α Fault Refusal} {f : α → Host.Outcome β Fault Refusal} {t : β} :
    andThen o f = .next t ↔ ∃ s, o = .next s ∧ f s = .next t := by
  cases o <;> simp [andThen]

/-- `storeBytes` either writes exactly its bytes, or stops because they do not fit the buffer. -/
theorem storeBytes_eq_next {s t : State} {b : Buf} {i : Nat} {bs : List Byte} :
    storeBytes s b i bs = .next t ↔
      i + bs.length ≤ frameMax ∧
        t = s.setBuf b { s.buf b with bytes := (s.buf b).bytes.writeList i bs } := by
  unfold storeBytes
  split
  · rename_i h
    simp [h, eq_comm]
  · rename_i h
    simp [h]

/-- Every byte of either buffer after a store. -/
theorem readByte_store (s : State) (b b' : Buf) (i : Nat) (bs : List Byte) (p : Fin (frameMax + 1)) (v : Bool) (j : Nat) :
    readByte (s.setBuf b { bytes := (s.buf b).bytes.writeList i bs, len := p, valid := v }) b' j =
      if b' = b ∧ i ≤ j ∧ j < i + bs.length then bs.getD (j - i) 0 else readByte s b' j := by
  unfold readByte
  by_cases hb : b' = b
  · subst hb
    rw [State.setBuf_buf_same, Memory.read_writeList]
    by_cases hj : i ≤ j ∧ j < i + bs.length
    · rw [if_pos hj, if_pos ⟨rfl, hj⟩, List.getD_eq_getElem?_getD]
      rw [List.getElem?_eq_getElem (by omega)]
      rfl
    · rw [if_neg hj, if_neg (fun h => hj h.2)]
  · rw [State.setBuf_buf_other s hb, if_neg (fun h => hb h.1)]

/-- `guarded` takes the first error its checks found, and otherwise the body. -/
@[simp] theorem guarded_some (e : ErrCode) (s : State) (body : Result) :
    guarded (some e) s body = .next (s.setErr e) := rfl

@[simp] theorem guarded_none (s : State) (body : Result) : guarded none s body = body := rfl

theorem guarded_eq_next {o : Option ErrCode} {s t : State} {body : Result} :
    guarded o s body = .next t ↔ (∃ e, o = some e ∧ t = s.setErr e) ∨ (o = none ∧ body = .next t) := by
  cases o <;> simp [guarded, raise, eq_comm]

@[simp] theorem raise_eq (e : ErrCode) (s : State) : raise e s = .next (s.setErr e) := rfl

@[simp] theorem complete_eq (s : State) : complete s = .next (s.setErr .none) := rfl

@[simp] theorem completeFlagged_eq (c : Bool) (e : ErrCode) (s : State) :
    completeFlagged c e s = .next (s.setErr (if c then e else .none)) := rfl

@[simp] theorem returnValue_eq (v : Word) (s : State) : returnValue v s = .next ((s.setR v).setErr .none) := rfl

@[simp] theorem readBytes_length (s : State) (b : Buf) (i n : Nat) : (readBytes s b i n).length = n := by
  simp [readBytes]

/-- Two reads of a run of bytes agree when each byte does. -/
theorem readBytes_congr {s t : State} {b b' : Buf} {i n : Nat}
    (h : ∀ j, i ≤ j → j < i + n → readByte s b j = readByte t b' j) : readBytes s b i n = readBytes t b' i n := by
  unfold readBytes
  refine List.map_congr_left fun j hj => h _ (by omega) ?_
  have := List.mem_range.mp hj
  omega

/-- The common check finds nothing exactly when the packet may be read (R140). -/
theorem checkPacket_eq_none {s : State} {b : Buf} :
    checkPacket s b = none ↔ (b = .tx → s.isSealed = true) ∧ 7 ≤ s.len b := by
  unfold checkPacket envelope
  by_cases h : b = .tx ∧ s.isSealed = false
  · rw [if_pos h]
    simp [h.1, h.2]
  · rw [if_neg h]
    by_cases hl : s.len b < 7
    · rw [if_pos hl]
      simp only [reduceCtorEq, false_iff, not_and]
      omega
    · rw [if_neg hl]
      simp only [true_iff]
      refine ⟨fun hb => ?_, by omega⟩
      cases hs : s.isSealed
      · exact absurd ⟨hb, hs⟩ h
      · rfl

/-- The window check finds nothing exactly when the field lies inside the payload (R140). -/
theorem checkWindow_eq_none {s : State} {b : Buf} {k w : Nat} :
    checkWindow s b k w = none ↔
      (b = .tx → s.isSealed = true) ∧ 7 ≤ s.len b ∧ 5 + k + w ≤ s.len b - 2 := by
  unfold checkWindow payloadBase
  have key := checkPacket_eq_none (s := s) (b := b)
  cases h : checkPacket s b with
  | some e =>
    rw [h] at key
    simp only [reduceCtorEq, false_iff] at key ⊢
    exact fun hh => key ⟨hh.1, hh.2.1⟩
  | none =>
    have hp := key.mp h
    by_cases hw : 5 + k + w > s.len b - 2
    · simp only [hw, if_true, reduceCtorEq, false_iff, not_and]
      intro _ _
      omega
    · simp only [hw, if_false, true_iff]
      exact ⟨hp.1, hp.2, by omega⟩

/-- Each error the common check can find, with its cause. -/
theorem checkPacket_eq_some {s : State} {b : Buf} {e : ErrCode} :
    checkPacket s b = some e ↔
      (b = .tx ∧ s.isSealed = false ∧ e = .frameState) ∨
        (¬(b = .tx ∧ s.isSealed = false) ∧ s.len b < 7 ∧ e = .frameTooShort) := by
  unfold checkPacket envelope
  by_cases h : b = .tx ∧ s.isSealed = false
  · rw [if_pos h]
    simp [h.1, h.2, eq_comm]
  · rw [if_neg h]
    by_cases hl : s.len b < 7
    · rw [if_pos hl]
      simp only [Option.some.injEq, h, not_false_iff, hl, true_and, eq_comm (a := ErrCode.frameTooShort)]
      constructor
      · exact .inr
      · rintro (hx | hx)
        · exact absurd ⟨hx.1, hx.2.1⟩ h
        · exact hx
    · rw [if_neg hl]
      simp only [reduceCtorEq, false_iff, not_or, not_and]
      exact ⟨fun hb hs => absurd ⟨hb, hs⟩ h, fun _ hc => absurd hc hl⟩

/-- Each error the window check can find: the packet's, else `FieldRange`. -/
theorem checkWindow_eq_some {s : State} {b : Buf} {k w : Nat} {e : ErrCode} :
    checkWindow s b k w = some e ↔
      checkPacket s b = some e ∨ (checkPacket s b = none ∧ 5 + k + w > s.len b - 2 ∧ e = .fieldRange) := by
  unfold checkWindow payloadBase
  cases checkPacket s b with
  | some e' => simp
  | none =>
    by_cases hw : 5 + k + w > s.len b - 2
    · simp [hw, eq_comm]
    · simp [hw]

/-- `appendByte` when there is room: one byte at the length, the length one more, the flag clear. -/
theorem appendByte_of_lt {s : State} {b : Buf} (h : s.len b < frameMax) (x : Byte) :
    appendByte b x s =
      .next ((s.setBuf b { bytes := (s.buf b).bytes.write (s.len b) x, len := lenOf (s.len b + 1),
                           valid := false }).setErr .none) := by
  unfold appendByte storeBytes
  rw [if_pos (by simpa using h)]
  cases b <;> rfl

/-- `pushReply` in every state (R125). -/
theorem pushReply_eq (x : Byte) (s : State) :
    pushReply x s =
      if s.len .rx = frameMax then .next (s.setErr .frameOverflow)
      else
        .next ((s.setBuf .rx { bytes := s.rx.bytes.write (s.len .rx) x, len := lenOf (s.len .rx + 1),
                               valid := false }).setErr .none) := by
  unfold pushReply
  split
  · rfl
  · rename_i h
    exact appendByte_of_lt (lt_of_le_of_ne (s.len_le .rx) h) x

/-- `startPacket` in every state (R121). -/
theorem startPacket_eq (c : Byte) (a : Word) (s : State) :
    startPacket c a s =
      .next (((s.setBuf .tx { bytes := s.tx.bytes.writeList 0 (wordBytes a ++ [c]), len := lenOf 5,
                              valid := false }).setSealed false).setErr .none) := by
  unfold startPacket storeBytes
  rw [if_pos (by simp [wordBytes, frameMax])]
  rfl

/-- `sealPacket` on an open packet that has room for its trailer (R123). -/
theorem sealPacket_of_open {s : State} (hs : s.isSealed = false) (h0 : s.len .tx ≠ 0) (hl : s.len .tx + 2 ≤ frameMax) :
    sealPacket s =
      .next (((s.setBuf .tx
        { bytes := s.tx.bytes.writeList (s.len .tx) (halfBytes (s.crcOf (readBytes s .tx 0 (s.len .tx)))),
          len := lenOf (s.len .tx + 2), valid := false }).setSealed true).setErr .none) := by
  unfold sealPacket noOpenPacket storeBytes
  rw [if_neg (by simp [hs, h0]), if_pos (by simpa [halfBytes] using hl)]
  rfl

/-- A store keeps the canonical form of both buffers. -/
theorem storeBytes_wf {s t : State} {b : Buf} {i : Nat} {bs : List Byte} (h : storeBytes s b i bs = .next t)
    (hs : ∀ b', (s.buf b').bytes.wf) (b' : Buf) : (t.buf b').bytes.wf := by
  obtain ⟨hi, rfl⟩ := storeBytes_eq_next.mp h
  rw [State.setBuf_buf]
  split
  · exact Memory.writeList_wf bs (hs b) hi
  · exact hs b'

/-- The buffers of the reset state are in canonical form. -/
theorem reset_bytes_wf (b : Buf) : (State.reset.buf b).bytes.wf := by
  cases b <;> exact Memory.nil_wf

/-- What `FRM.PAY` can do (R122). -/
theorem execFrmPay_cases {x : Byte} {s t : State} (h : execFrmPay x s = .next t) :
    (noOpenPacket s = true ∧ t = s.setErr .frameState) ∨
      (noOpenPacket s = false ∧ 21 ≤ s.len .tx ∧ t = s.setErr .frameOverflow) ∨
      (noOpenPacket s = false ∧ s.len .tx < 21 ∧
        t = (s.setBuf .tx { bytes := s.tx.bytes.write (s.len .tx) x, len := lenOf (s.len .tx + 1),
                            valid := false }).setErr .none) := by
  unfold execFrmPay at h
  split at h
  · rename_i hn
    simp only [raise_eq, Host.Outcome.next.injEq] at h
    exact .inl ⟨hn, h.symm⟩
  · rename_i hn
    rw [Bool.not_eq_true] at hn
    split at h
    · rename_i hl
      simp only [raise_eq, Host.Outcome.next.injEq] at h
      exact .inr (.inl ⟨hn, hl, h.symm⟩)
    · rename_i hl
      have hl' : s.len .tx < 21 := Nat.lt_of_not_le hl
      rw [appendByte_of_lt (hl'.trans (by decide)), Host.Outcome.next.injEq] at h
      exact .inr (.inr ⟨hn, hl', h.symm⟩)

/-- What `FRM.SEAL` can do (R123). -/
theorem execFrmSeal_cases {s t : State} (h : execFrmSeal s = .next t) :
    (noOpenPacket s = true ∧ t = s.setErr .frameState) ∨
      (noOpenPacket s = false ∧ s.len .tx ≤ 21 ∧
        t = ((s.setBuf .tx
          { bytes := s.tx.bytes.writeList (s.len .tx) (halfBytes (s.crcOf (readBytes s .tx 0 (s.len .tx)))),
            len := lenOf (s.len .tx + 2), valid := false }).setSealed true).setErr .none) := by
  unfold execFrmSeal at h
  by_cases hn : noOpenPacket s = true
  · simp only [sealPacket, hn, if_true, raise_eq, Host.Outcome.next.injEq] at h
    exact .inl ⟨hn, h.symm⟩
  · have hn' := hn
    simp only [noOpenPacket, Bool.or_eq_true, beq_iff_eq, not_or, Bool.not_eq_true] at hn'
    rw [Bool.not_eq_true] at hn
    by_cases hl : s.len .tx ≤ 21
    · rw [sealPacket_of_open hn'.1 hn'.2 (by unfold frameMax; omega), Host.Outcome.next.injEq] at h
      exact .inr ⟨hn, hl, h.symm⟩
    · exfalso
      unfold sealPacket storeBytes at h
      rw [if_neg (by simp [hn]), if_neg (by simp only [halfBytes, List.length_cons, List.length_nil, frameMax]; omega)] at h
      simp at h

/-- What one step does, by the event presented. -/
theorem step_cons {s : State} {e : PortEvent} {rest : List PortEvent} (h : s.port = e :: rest) :
    step s = present e (s.setPort rest) := by
  unfold step servePort
  rw [h]

theorem step_idle {s : State} (h : s.port = []) : step s = .next s := by
  unfold step servePort
  rw [h]

end Sys2Proof.Machine
end

