-- ==== Sys2Proof/Laws/PerInstr.lean ====
section
/-! SUPPORT. Statements made per instruction: the size of an encoding is the size the opcode table gives the row. -/

namespace Sys2Proof.Laws

/-- How many bits a port event has. -/
def eventBits : PortEvent → Nat
  | .word _ => 48
  | .frame bytes => 8 * bytes.length
  | .reset _ => 0

/-- The number of bits in the "encoding" of each row of spec/opcode_table.json. -/
def tableBits : Instr → Nat
  | .bcdDec _ _ => 48
  | .bcdDec8 _ => 48
  | .crcClr => 48
  | .crcUpd _ => 48
  | .crcGet => 48
  | .crcFrame _ => 48
  | .lenResolve _ => 48
  | .frmHdr _ _ => 48
  | .frmPay _ => 48
  | .frmSeal => 48
  | .dfrClr => 48
  | .dfrPush _ => 48
  | .pktCheck _ => 48
  | .bufRd _ _ => 48
  | .getAddr _ => 48
  | .getCmd _ => 48
  | .getCrc _ => 48
  | .getB _ _ => 48
  | .getH _ _ => 48
  | .getT _ _ => 48
  | .getW _ _ => 48
  | .getDt _ _ => 48
  | .frameReqReadTime _ => 56
  | .frameRepReadTime _ _ _ => 112
  | .frameReqReadPower _ => 56
  | .frameRepReadPower _ _ _ => 88
  | .frameReqReadCounters _ => 56
  | .frameRepReadCounters _ _ _ => 184
  | .frameReqReadBattery _ => 56
  | .frameRepReadBattery _ _ _ => 72
  | .frameReqReadTariffs _ => 56
  | .frameRepReadTariffs _ _ _ => 64
  | .frameReqReadTariff _ => 56
  | .frameRepReadTariff _ _ _ => 64
  | .frameReqReadUip _ => 56
  | .frameRepReadUip _ _ _ => 112
  | .frameReqReadLineParams _ => 56
  | .frameRepReadLineParams _ _ _ => 136

/-- A well-formed instruction's encoding has the size of its row. -/
def Width.Statement (i : Instr) : Prop :=
  ∀ cfg v, i.wellFormed = true → eventBits (encode cfg v i) = tableBits i

theorem requestBytes_length (cfg : Config) (v : Variant) (c : Command) (a : Word) :
    (requestBytes cfg v c a).length = 7 := by
  simp [requestBytes]

theorem replyBytes_length (cfg : Config) (c : Command) (a : Word) (p : List Byte) (t : Half) :
    (replyBytes cfg c a p t).length = p.length + 7 := by
  simp [replyBytes]
  omega

theorem replyWidth {cfg : Config} {c : Command} {a : Word} {p : List Byte} {t : Half} (h : payloadFits c p = true) :
    eventBits (.frame (replyBytes cfg c a p t)) = 8 * (Machine.replyPayload c + 7) := by
  rw [payloadFits, beq_iff_eq] at h
  rw [eventBits, replyBytes_length, h]

theorem requestWidth (cfg : Config) (v : Variant) (c : Command) (a : Word) :
    eventBits (.frame (requestBytes cfg v c a)) = 56 := by
  rw [eventBits, requestBytes_length]

theorem Width.bcdDec (x : Byte) (y : Word) : Width.Statement (.bcdDec x y) := fun _ _ _ => rfl
theorem Width.bcdDec8 (x : Byte) : Width.Statement (.bcdDec8 x) := fun _ _ _ => rfl
theorem Width.crcClr : Width.Statement .crcClr := fun _ _ _ => rfl
theorem Width.crcUpd (x : Byte) : Width.Statement (.crcUpd x) := fun _ _ _ => rfl
theorem Width.crcGet : Width.Statement .crcGet := fun _ _ _ => rfl
theorem Width.crcFrame (x : Buf) : Width.Statement (.crcFrame x) := fun _ _ _ => rfl
theorem Width.lenResolve (x : Byte) : Width.Statement (.lenResolve x) := fun _ _ _ => rfl
theorem Width.frmHdr (x : Byte) (y : Word) : Width.Statement (.frmHdr x y) := fun _ _ _ => rfl
theorem Width.frmPay (x : Byte) : Width.Statement (.frmPay x) := fun _ _ _ => rfl
theorem Width.frmSeal : Width.Statement .frmSeal := fun _ _ _ => rfl
theorem Width.dfrClr : Width.Statement .dfrClr := fun _ _ _ => rfl
theorem Width.dfrPush (x : Byte) : Width.Statement (.dfrPush x) := fun _ _ _ => rfl
theorem Width.pktCheck (x : Buf) : Width.Statement (.pktCheck x) := fun _ _ _ => rfl
theorem Width.bufRd (x : Buf) (y : Byte) : Width.Statement (.bufRd x y) := fun _ _ _ => rfl
theorem Width.getAddr (x : Buf) : Width.Statement (.getAddr x) := fun _ _ _ => rfl
theorem Width.getCmd (x : Buf) : Width.Statement (.getCmd x) := fun _ _ _ => rfl
theorem Width.getCrc (x : Buf) : Width.Statement (.getCrc x) := fun _ _ _ => rfl
theorem Width.getB (x : Buf) (y : Byte) : Width.Statement (.getB x y) := fun _ _ _ => rfl
theorem Width.getH (x : Buf) (y : Byte) : Width.Statement (.getH x y) := fun _ _ _ => rfl
theorem Width.getT (x : Buf) (y : Byte) : Width.Statement (.getT x y) := fun _ _ _ => rfl
theorem Width.getW (x : Buf) (y : Byte) : Width.Statement (.getW x y) := fun _ _ _ => rfl
theorem Width.getDt (x : Buf) (y : Byte) : Width.Statement (.getDt x y) := fun _ _ _ => rfl
theorem Width.frameReqReadTime (x : Word) : Width.Statement (.frameReqReadTime x) := fun _ _ _ => requestWidth _ _ _ _
theorem Width.frameRepReadTime (x : Word) (y : List Byte) (z : Half) : Width.Statement (.frameRepReadTime x y z) := fun _ _ h => replyWidth h
theorem Width.frameReqReadPower (x : Word) : Width.Statement (.frameReqReadPower x) := fun _ _ _ => requestWidth _ _ _ _
theorem Width.frameRepReadPower (x : Word) (y : List Byte) (z : Half) : Width.Statement (.frameRepReadPower x y z) := fun _ _ h => replyWidth h
theorem Width.frameReqReadCounters (x : Word) : Width.Statement (.frameReqReadCounters x) := fun _ _ _ => requestWidth _ _ _ _
theorem Width.frameRepReadCounters (x : Word) (y : List Byte) (z : Half) : Width.Statement (.frameRepReadCounters x y z) := fun _ _ h => replyWidth h
theorem Width.frameReqReadBattery (x : Word) : Width.Statement (.frameReqReadBattery x) := fun _ _ _ => requestWidth _ _ _ _
theorem Width.frameRepReadBattery (x : Word) (y : List Byte) (z : Half) : Width.Statement (.frameRepReadBattery x y z) := fun _ _ h => replyWidth h
theorem Width.frameReqReadTariffs (x : Word) : Width.Statement (.frameReqReadTariffs x) := fun _ _ _ => requestWidth _ _ _ _
theorem Width.frameRepReadTariffs (x : Word) (y : List Byte) (z : Half) : Width.Statement (.frameRepReadTariffs x y z) := fun _ _ h => replyWidth h
theorem Width.frameReqReadTariff (x : Word) : Width.Statement (.frameReqReadTariff x) := fun _ _ _ => requestWidth _ _ _ _
theorem Width.frameRepReadTariff (x : Word) (y : List Byte) (z : Half) : Width.Statement (.frameRepReadTariff x y z) := fun _ _ h => replyWidth h
theorem Width.frameReqReadUip (x : Word) : Width.Statement (.frameReqReadUip x) := fun _ _ _ => requestWidth _ _ _ _
theorem Width.frameRepReadUip (x : Word) (y : List Byte) (z : Half) : Width.Statement (.frameRepReadUip x y z) := fun _ _ h => replyWidth h
theorem Width.frameReqReadLineParams (x : Word) : Width.Statement (.frameReqReadLineParams x) := fun _ _ _ => requestWidth _ _ _ _
theorem Width.frameRepReadLineParams (x : Word) (y : List Byte) (z : Half) : Width.Statement (.frameRepReadLineParams x y z) := fun _ _ h => replyWidth h

end Sys2Proof.Laws
end

