-- ==== Sys2Proof/Tests/Slice0.lean ====
section
/-! SUPPORT. Tests: the well-formedness smoke, the decoding of words written out from R62 and R63, one step per instruction
with values from spec/95_test_vectors.md (V numbers) and spec/96_more_programs.md, and a witness for the hypotheses of each
statement. -/

namespace Sys2Proof.Tests

-- One theorem after another: each waits for the kernel, and every waiting thread takes its own stack.
set_option Elab.async false

open Sys2Proof.Machine

/-! ## Helpers -/

/-- The profile of the vectors, variant B. -/
def profileB : Config := Config.standard.strapped .B

/-- The profile of the vectors, the other triple layout. -/
def profileBig : Config := { Config.standard with tripleLayout := .bigEndian }

/-- A packet that holds these bytes. -/
def packetOf (bytes : List Byte) : Packet where
  bytes := Memory.writeList [] 0 bytes
  len := lenOf bytes.length
  valid := false

/-- The reset state with these bytes pushed into `RXB`. -/
def rxState (cfg : Config) (bytes : List Byte) : State := { State.resetOf cfg with rx := packetOf bytes }

/-- The reset state with an open request packet of these bytes. -/
def openState (cfg : Config) (bytes : List Byte) : State := { State.resetOf cfg with tx := packetOf bytes }

/-- The reset state with a sealed request packet of these bytes. -/
def sealedState (cfg : Config) (bytes : List Byte) : State :=
  { State.resetOf cfg with tx := packetOf bytes, isSealed := true }

/-- What a field holds in the next state. -/
def got {α : Type} (o : Result) (f : State → α) : Option α :=
  match o with
  | .next t => some (f t)
  | .fault _ => none
  | .refused _ => none

/-- `R` and the bits of `ERR`. -/
def rAndErr (t : State) : Word × BitVec 4 := (t.r, t.err.bits)

/-- The bytes in use of a buffer. -/
def content (b : Buf) (t : State) : List Byte := readBytes t b 0 (t.len b)

/-- The `READ_UIP` reply of V30, variant A. -/
def uipReply : List Byte := [0x00, 0x00, 0x00, 0x01, 0x63, 0x22, 0x95, 0x01, 0x37, 0x03, 0x12, 0x00, 0xFF, 0xBC]

/-- The `READ_BATTERY` reply of V27, variant A. -/
def batteryReply : List Byte := [0x00, 0x00, 0x00, 0x01, 0x29, 0x03, 0x15, 0x0A, 0x0B]

/-- The sealed `READ_COUNTERS` request of V29, variant A. -/
def countersRequest : List Byte := [0x00, 0x00, 0x00, 0x01, 0x27, 0x65, 0x8A]

/-! ## Well-formedness: one check, a payload of the wrong length, for each reply row -/

theorem smoke_readTime : (Instr.frameRepReadTime 1 [] 0).wellFormed = false := by decide
theorem smoke_readPower : (Instr.frameRepReadPower 1 [0, 0, 0, 0, 0] 0).wellFormed = false := by decide
theorem smoke_readCounters : (Instr.frameRepReadCounters 1 [0, 0, 0, 0] 0).wellFormed = false := by decide
theorem smoke_readBattery : (Instr.frameRepReadBattery 1 [0] 0).wellFormed = false := by decide
theorem smoke_readTariffs : (Instr.frameRepReadTariffs 1 [] 0).wellFormed = false := by decide
theorem smoke_readTariff : (Instr.frameRepReadTariff 1 [0, 0] 0).wellFormed = false := by decide
theorem smoke_readUip : (Instr.frameRepReadUip 1 [0, 0, 0] 0).wellFormed = false := by decide
theorem smoke_readLineParams : (Instr.frameRepReadLineParams 1 [0] 0).wellFormed = false := by decide

/-! ## Decoding: words written out from R62 and R63, one for each constructor, and the illegal words of V73 -/

theorem test_decode_bcdDec : decodeWord 0b00001_00_0_00000100_00010010001101000101011001111000 = .ok (.bcdDec 4 0x12345678) := by decide
theorem test_decode_bcdDec8 : decodeWord 0b00010_00_0_01011001_00000000000000000000000000000000 = .ok (.bcdDec8 0x59) := by decide
theorem test_decode_crcClr : decodeWord 0b00011_00_0_00000000_00000000000000000000000000000000 = .ok .crcClr := by decide
theorem test_decode_crcUpd : decodeWord 0b00100_00_0_00100111_00000000000000000000000000000000 = .ok (.crcUpd 0x27) := by decide
theorem test_decode_crcGet : decodeWord 0b00101_00_0_00000000_00000000000000000000000000000000 = .ok .crcGet := by decide
theorem test_decode_crcFrame : decodeWord 0b00110_00_1_00000000_00000000000000000000000000000000 = .ok (.crcFrame .rx) := by decide
theorem test_decode_lenResolve : decodeWord 0b00111_00_0_00100001_00000000000000000000000000000000 = .ok (.lenResolve 0x21) := by decide
theorem test_decode_frmHdr : decodeWord 0b01000_00_0_00100111_00000000000000000000000000000001 = .ok (.frmHdr 0x27 1) := by decide
theorem test_decode_frmPay : decodeWord 0b01001_00_0_11101110_00000000000000000000000000000000 = .ok (.frmPay 0xEE) := by decide
theorem test_decode_frmSeal : decodeWord 0b01010_00_0_00000000_00000000000000000000000000000000 = .ok .frmSeal := by decide
theorem test_decode_dfrClr : decodeWord 0b01011_00_0_00000000_00000000000000000000000000000000 = .ok .dfrClr := by decide
theorem test_decode_dfrPush : decodeWord 0b01100_00_0_01110111_00000000000000000000000000000000 = .ok (.dfrPush 0x77) := by decide
theorem test_decode_pktCheck : decodeWord 0b01101_00_1_00000000_00000000000000000000000000000000 = .ok (.pktCheck .rx) := by decide
theorem test_decode_bufRd : decodeWord 0b01110_00_0_00000101_00000000000000000000000000000000 = .ok (.bufRd .tx 5) := by decide
theorem test_decode_getAddr : decodeWord 0b01111_00_1_00000000_00000000000000000000000000000000 = .ok (.getAddr .rx) := by decide
theorem test_decode_getCmd : decodeWord 0b10000_00_0_00000000_00000000000000000000000000000000 = .ok (.getCmd .tx) := by decide
theorem test_decode_getCrc : decodeWord 0b10001_00_1_00000000_00000000000000000000000000000000 = .ok (.getCrc .rx) := by decide
theorem test_decode_getB : decodeWord 0b10010_00_1_11111111_00000000000000000000000000000000 = .ok (.getB .rx 255) := by decide
theorem test_decode_getH : decodeWord 0b10011_00_1_00000010_00000000000000000000000000000000 = .ok (.getH .rx 2) := by decide
theorem test_decode_getT : decodeWord 0b10100_00_1_00000100_00000000000000000000000000000000 = .ok (.getT .rx 4) := by decide
theorem test_decode_getW : decodeWord 0b10101_00_0_00000011_00000000000000000000000000000000 = .ok (.getW .tx 3) := by decide
theorem test_decode_getDt : decodeWord 0b10110_00_1_00000001_00000000000000000000000000000000 = .ok (.getDt .rx 1) := by decide

/-- V73. -/
theorem test_decode_illegal_words :
    ([0x000000000000, 0xB80000000000, 0xF80000000000, 0xFFFFFFFFFFFF, 0x180000000001, 0x190000000000,
        0x1A0000000000, 0x1C0000000000, 0x500100000000, 0x382700000001, 0x282700000000, 0x600000000100, 0x110000000000,
        0x410000000000, 0xA90000000001, 0x6A0000000000].map decodeWord) = List.replicate 16 (.error .illegalWord) := by
  decide +kernel

/-- V29, variant A; the same command byte with variant B's trailer is no request under A (V33). -/
theorem test_decode_request :
    decodeTableWord 56 0x0000000127658A = some (.frameReqReadCounters 1) ∧
    decodeTableWord 56 0x000000012786D1 = none := by
  decide +kernel

/-- V29: the eight requests to address 1, variant B. -/
theorem test_decode_requests_B :
    decode profileB .B (.frame [0, 0, 0, 1, 0x21, 0x86, 0xC5]) = .ok (.frameReqReadTime 1) ∧
    decode profileB .B (.frame [0, 0, 0, 1, 0x26, 0x06, 0xD4]) = .ok (.frameReqReadPower 1) ∧
    decode profileB .B (.frame [0, 0, 0, 1, 0x27, 0x86, 0xD1]) = .ok (.frameReqReadCounters 1) ∧
    decode profileB .B (.frame [0, 0, 0, 1, 0x29, 0x06, 0xF6]) = .ok (.frameReqReadBattery 1) ∧
    decode profileB .B (.frame [0, 0, 0, 1, 0x2E, 0x86, 0xE7]) = .ok (.frameReqReadTariffs 1) ∧
    decode profileB .B (.frame [0, 0, 0, 1, 0x60, 0x87, 0x43]) = .ok (.frameReqReadTariff 1) ∧
    decode profileB .B (.frame [0, 0, 0, 1, 0x63, 0x87, 0x49]) = .ok (.frameReqReadUip 1) ∧
    decode profileB .B (.frame [0, 0, 0, 1, 0x81, 0x85, 0x05]) = .ok (.frameReqReadLineParams 1) := by
  decide +kernel

/-- V30: the eight replies, variant A. -/
theorem test_decode_replies :
    decodeTableWord 112 0x0000000121021435591011269845 =
      some (.frameRepReadTime 1 [0x02, 0x14, 0x35, 0x59, 0x10, 0x11, 0x26] 0x9845) ∧
    decodeTableWord 88 0x0000000126000012340F91 = some (.frameRepReadPower 1 [0, 0, 0x12, 0x34] 0x0F91) ∧
    decodeTableWord 184 0x000000012700012345000067890000000099999999_1D41 =
      some (.frameRepReadCounters 1
        [0, 1, 0x23, 0x45, 0, 0, 0x67, 0x89, 0, 0, 0, 0, 0x99, 0x99, 0x99, 0x99] 0x1D41) ∧
    decodeTableWord 72 0x000000012903150A0B = some (.frameRepReadBattery 1 [0x03, 0x15] 0x0A0B) ∧
    decodeTableWord 64 0x000000012E044DB8 = some (.frameRepReadTariffs 1 [0x04] 0x4DB8) ∧
    decodeTableWord 64 0x000000016001B81B = some (.frameRepReadTariff 1 [0x01] 0xB81B) ∧
    decodeTableWord 112 0x000000016322950137031200FFBC =
      some (.frameRepReadUip 1 [0x22, 0x95, 0x01, 0x37, 0x03, 0x12, 0x00] 0xFFBC) ∧
    decodeTableWord 136 0x000000018150000102030405060708E3C7 =
      some (.frameRepReadLineParams 1 [0x50, 0, 1, 2, 3, 4, 5, 6, 7, 8] 0xE3C7) := by
  decide +kernel

/-- The encoder gives the word of R62 for operands in every field. -/
theorem test_encode_words :
    encode Config.standard .A (.bcdDec 9 0x12345678) = .word 0x080912345678 ∧
    encode Config.standard .A (.bufRd .tx 255) = .word 0x70FF00000000 ∧
    encode Config.standard .A (.getW .rx 12) = .word 0xA90C00000000 ∧
    encode Config.standard .A (.frameReqReadUip 1) = .frame [0, 0, 0, 1, 0x63, 0x65, 0xB9] := by
  decide +kernel

/-! ## One step per instruction -/

/-- V5, V9. -/
theorem test_bcdDec :
    got (exec (.bcdDec 4 0x12345678) State.reset) rAndErr = some (5678, 0) ∧
    got (exec (.bcdDec 8 0xFFFFFFFF) State.reset) rAndErr = some (166666665, 8) := by decide +kernel

/-- V15, V16. -/
theorem test_bcdDec_edges :
    got (exec (.bcdDec 7 0xF0000001) State.reset) rAndErr = some (1, 0) ∧
    got (exec (.bcdDec 9 0x12345678) State.reset) rAndErr = some (0, 9) := by decide +kernel

/-- V17. -/
theorem test_bcdDec8 :
    got (exec (.bcdDec8 0x59) State.reset) rAndErr = some (59, 0) ∧
    got (exec (.bcdDec8 0xA1) State.reset) rAndErr = some (101, 8) := by decide +kernel

/-- R95 and P6 step 1. -/
theorem test_crcClr :
    got (exec .crcClr { State.reset with acc := 0x8A65 }) State.acc = some 0xFFFF ∧
    got (exec .crcClr { State.resetOf profileB with acc := 0x86D1 }) State.acc = some 0 := by decide +kernel

/-- P6 step 6. -/
theorem test_crcUpd :
    got (exec (.crcUpd 0x27) { State.reset with acc := 0xE4C1 }) State.acc = some 0x8A65 ∧
    got (exec (.crcUpd 0x27) { State.resetOf profileB with acc := 0x8005 }) State.acc = some 0x86D1 := by decide +kernel

/-- V19: the nine ASCII digits. -/
theorem test_crc_of_digits :
    crc16 Config.standard .A [0x31, 0x32, 0x33, 0x34, 0x35, 0x36, 0x37, 0x38, 0x39] = 0x374B ∧
    crc16 profileB .B [0x31, 0x32, 0x33, 0x34, 0x35, 0x36, 0x37, 0x38, 0x39] = 0xFEE8 := by decide +kernel

/-- P6 step 7. -/
theorem test_crcGet :
    got (exec .crcGet { State.reset with acc := 0x8A65 }) rAndErr = some (0x658A, 0) ∧
    got (exec .crcGet { State.resetOf profileB with acc := 0x86D1 }) rAndErr = some (0x86D1, 0) := by decide +kernel

/-- P3 step 12, V64. -/
theorem test_crcFrame :
    got (exec (.crcFrame .rx) (rxState Config.standard [0, 0, 0, 1, 0x29, 0x03, 0x11, 0x0A, 0x0B])) rAndErr =
      some (0x0BC8, 0) ∧
    got (exec (.crcFrame .tx) State.reset) rAndErr = some (0, 10) := by decide +kernel

/-- V66, V67. -/
theorem test_lenResolve :
    got (exec (.lenResolve 0x27) State.reset) rAndErr = some (16, 0) ∧
    got (exec (.lenResolve 0x28) State.reset) rAndErr = some (0, 2) := by decide +kernel

/-- V41: from a sealed packet. -/
theorem test_frmHdr :
    got (exec (.frmHdr 0x21 0x00123456) (sealedState Config.standard countersRequest))
      (fun t => (content .tx t, t.isSealed, t.tx.valid)) = some ([0x00, 0x12, 0x34, 0x56, 0x21], false, false) := by
  decide +kernel

/-- R122, and V39: no room. -/
theorem test_frmPay :
    got (exec (.frmPay 0x03) (openState Config.standard [0, 0, 0, 1, 0x29])) (content .tx) =
      some [0, 0, 0, 1, 0x29, 0x03] ∧
    got (exec (.frmPay 0xEE) (openState Config.standard (List.replicate 21 0))) (fun t => (t.len .tx, t.err.bits)) =
      some (21, 5) := by decide +kernel

/-- P5 steps 13 and 14. -/
theorem test_frmSeal :
    got (exec .frmSeal (openState Config.standard [0, 0, 0, 1, 0x27])) (fun t => (content .tx t, t.isSealed)) =
      some (countersRequest, true) ∧
    got (exec .frmSeal (sealedState Config.standard countersRequest)) rAndErr = some (0, 10) := by decide +kernel

/-- R124. -/
theorem test_dfrClr :
    got (exec .dfrClr (rxState Config.standard uipReply)) (fun t => (t.len .rx, t.rx.valid)) = some (0, false) := by
  decide +kernel

/-- P2 step 24, V39. -/
theorem test_dfrPush :
    got (exec (.dfrPush 0x41) (rxState Config.standard (List.replicate 22 1))) (fun t => (t.len .rx, readByte t .rx 22)) =
      some (23, 0x41) ∧
    got (exec (.dfrPush 0x77) (rxState Config.standard (List.replicate 23 1)))
      (fun t => (t.len .rx, readByte t .rx 22, t.err.bits)) = some (23, 1, 5) := by decide +kernel

/-- V27, V28. -/
theorem test_pktCheck :
    got (exec (.pktCheck .rx) (rxState Config.standard batteryReply)) (fun t => (rAndErr t, t.rx.valid)) =
      some ((1, 0), true) ∧
    got (exec (.pktCheck .rx) (rxState Config.standard [0, 0, 0, 1, 0x29, 0x03, 0x15, 0x0A, 0x0A]))
      (fun t => (rAndErr t, t.rx.valid)) = some ((0, 3), false) := by decide +kernel

/-- V32, V34. -/
theorem test_pktCheck_zeros :
    got (exec (.pktCheck .rx) (rxState profileB (List.replicate 7 0))) rAndErr = some (1, 0) ∧
    got (exec (.pktCheck .rx) (rxState Config.standard (batteryReply ++ [0]))) rAndErr = some (1, 0) := by decide +kernel

/-- R127. -/
theorem test_bufRd :
    got (exec (.bufRd .tx 5) (sealedState Config.standard countersRequest)) rAndErr = some (0x65, 0) ∧
    got (exec (.bufRd .tx 7) (sealedState Config.standard countersRequest)) rAndErr = some (0, 7) := by decide +kernel

/-- V42 with the address of V31, V64. -/
theorem test_getAddr :
    got (exec (.getAddr .rx) (rxState Config.standard ([0xDE, 0xAD, 0xBE, 0xEF] ++ uipReply.drop 4))) rAndErr =
      some (0xDEADBEEF, 0) ∧
    got (exec (.getAddr .rx) State.reset) rAndErr = some (0, 4) := by decide +kernel

/-- V43, P5 step 11. -/
theorem test_getCmd :
    got (exec (.getCmd .rx) (rxState Config.standard uipReply)) rAndErr = some (0x63, 0) ∧
    got (exec (.getCmd .tx) (openState Config.standard [0, 0, 0, 1, 0x27])) rAndErr = some (0, 10) := by decide +kernel

/-- V44. -/
theorem test_getCrc :
    got (exec (.getCrc .rx) (rxState Config.standard uipReply)) rAndErr = some (0xFFBC, 0) := by decide +kernel

/-- V47, V48. -/
theorem test_getB :
    got (exec (.getB .rx 0) (rxState Config.standard uipReply)) rAndErr = some (0x22, 0) ∧
    got (exec (.getB .rx 7) (rxState Config.standard uipReply)) rAndErr = some (0, 6) := by decide +kernel

/-- V51, V53. -/
theorem test_getH :
    got (exec (.getH .rx 1) (rxState Config.standard uipReply)) rAndErr = some (0x9501, 0) ∧
    got (exec (.getH .rx 6) (rxState Config.standard uipReply)) rAndErr = some (0, 6) := by decide +kernel

/-- V54 under both layouts. -/
theorem test_getT :
    got (exec (.getT .rx 4) (rxState Config.standard uipReply)) rAndErr = some (0x000312, 0) ∧
    got (exec (.getT .rx 4) (rxState profileBig uipReply)) rAndErr = some (0x031200, 0) := by decide +kernel

/-- V58, V59. -/
theorem test_getW :
    got (exec (.getW .rx 3) (rxState Config.standard uipReply)) rAndErr = some (0x37031200, 0) ∧
    got (exec (.getW .rx 4) (rxState Config.standard uipReply)) rAndErr = some (0, 6) := by decide +kernel

/-- V62, first and fourth row. -/
theorem test_getDt :
    got (exec (.getDt .rx 0)
        (rxState Config.standard [0, 0, 0, 1, 0x21, 0x02, 0x14, 0x35, 0x59, 0x10, 0x11, 0x26, 0x98, 0x45]))
      (fun t => (t.dt, t.err.bits)) =
      some ({ year := 2026, mon := 11, day := 10, hour := 14, min := 35, sec := 59 }, 0) ∧
    got (exec (.getDt .rx 0)
        (rxState Config.standard [0, 0, 0, 1, 0x21, 0x02, 0x25, 0x61, 0x7A, 0x00, 0x13, 0x99, 0xE7, 0x39]))
      (fun t => (t.dt, t.err.bits)) =
      some ({ year := 2099, mon := 13, day := 0, hour := 25, min := 61, sec := 80 }, 8) := by decide +kernel

/-- V29: each request frame leaves its row of the table, variant A. -/
theorem test_request_frames :
    got (exec (.frameReqReadTime 1) State.reset) (content .tx) = some [0, 0, 0, 1, 0x21, 0xE5, 0x88] ∧
    got (exec (.frameReqReadPower 1) State.reset) (content .tx) = some [0, 0, 0, 1, 0x26, 0xA4, 0x4A] ∧
    got (exec (.frameReqReadCounters 1) State.reset) (content .tx) = some [0, 0, 0, 1, 0x27, 0x65, 0x8A] ∧
    got (exec (.frameReqReadBattery 1) State.reset) (content .tx) = some [0, 0, 0, 1, 0x29, 0xE4, 0x4E] ∧
    got (exec (.frameReqReadTariffs 1) State.reset) (content .tx) = some [0, 0, 0, 1, 0x2E, 0xA5, 0x8C] ∧
    got (exec (.frameReqReadTariff 1) State.reset) (content .tx) = some [0, 0, 0, 1, 0x60, 0x25, 0xB8] ∧
    got (exec (.frameReqReadUip 1) State.reset) (content .tx) = some [0, 0, 0, 1, 0x63, 0x65, 0xB9] ∧
    got (exec (.frameReqReadLineParams 1) State.reset) (content .tx) = some [0, 0, 0, 1, 0x81, 0xE5, 0xF0] := by
  decide +kernel

/-- V30: each reply frame leaves its bytes, variant A. -/
theorem test_reply_frames :
    got (exec (.frameRepReadTime 1 [0x02, 0x14, 0x35, 0x59, 0x10, 0x11, 0x26] 0x9845) State.reset) (content .rx) =
      some [0, 0, 0, 1, 0x21, 0x02, 0x14, 0x35, 0x59, 0x10, 0x11, 0x26, 0x98, 0x45] ∧
    got (exec (.frameRepReadPower 1 [0, 0, 0x12, 0x34] 0x0F91) State.reset) (content .rx) =
      some [0, 0, 0, 1, 0x26, 0, 0, 0x12, 0x34, 0x0F, 0x91] ∧
    got (exec (.frameRepReadCounters 1 (List.replicate 16 0x99) 0x1D41) State.reset) (content .rx) =
      some ([0, 0, 0, 1, 0x27] ++ List.replicate 16 0x99 ++ [0x1D, 0x41]) ∧
    got (exec (.frameRepReadBattery 1 [0x03, 0x15] 0x0A0B) State.reset) (content .rx) = some batteryReply ∧
    got (exec (.frameRepReadTariffs 1 [0x04] 0x4DB8) State.reset) (content .rx) =
      some [0, 0, 0, 1, 0x2E, 0x04, 0x4D, 0xB8] ∧
    got (exec (.frameRepReadTariff 1 [0x01] 0xB81B) State.reset) (content .rx) =
      some [0, 0, 0, 1, 0x60, 0x01, 0xB8, 0x1B] ∧
    got (exec (.frameRepReadUip 1 [0x22, 0x95, 0x01, 0x37, 0x03, 0x12, 0x00] 0xFFBC) State.reset) (content .rx) =
      some uipReply ∧
    got (exec (.frameRepReadLineParams 1 [0x50, 0, 1, 2, 3, 4, 5, 6, 7, 8] 0xE3C7) State.reset) (content .rx) =
      some [0, 0, 0, 1, 0x81, 0x50, 0, 1, 2, 3, 4, 5, 6, 7, 8, 0xE3, 0xC7] := by decide +kernel

/-! ## The step -/

/-- P5 step 10 as a step from the reset state. -/
theorem test_step_word :
    got (step (State.reset.withFetchWord 48 0x402700000001)) (fun t => (content .tx t, t.port)) =
      some ([0, 0, 0, 1, 0x27], []) := by decide +kernel

/-- V73: the all-zero word. -/
theorem test_step_illegal :
    got (step (State.reset.withFetchWord 48 0)) rAndErr = some (0, 1) := by decide +kernel

/-- V29 as a step from the reset state. -/
theorem test_step_frame :
    got (step (State.reset.withFetchWord 56 0x0000000127658A)) (fun t => (content .tx t, t.isSealed)) =
      some (countersRequest, true) := by decide +kernel

/-- U11: six bytes are no frame. -/
theorem test_step_no_frame :
    step { State.reset with port := [.frame [0, 0, 1, 0x27, 0, 0]] } = .refused (.notAFrame .frameTooShort) := by rfl

/-- V76: reset with the other strap. -/
theorem test_step_reset :
    got (step { rxState Config.standard uipReply with port := [.reset .B] })
      (fun t => (t.acc, t.variant, t.len .rx)) = some (0, .B, 0) := by decide +kernel

/-! ## Layouts, pseudo-operations and the transaction -/

/-- V68d and V71c. -/
theorem test_bcd_fields :
    got (runPseudo (.getBcd6 .rx 4) (rxState Config.standard uipReply)) rAndErr = some (312, 0) ∧
    got (runPseudo (.getBcd4 .rx 0) (rxState Config.standard batteryReply)) rAndErr = some (315, 0) := by decide +kernel

/-- S10: a read that times out is `ReplyTimeout`, and the settling delay is owed. -/
theorem test_transaction_timeout :
    (match executeTransaction { attached := true, writeSucceeds := true, reads := [.data [0], .timeout], interruptAt := none }
        0x27 1 State.reset with
      | .next rep => some (rep.outcome, rep.settleOwed, rep.written, rep.block.len .rx)
      | .fault _ => none
      | .refused _ => none) = some (.replyTimeout, 100, some countersRequest, 1) := by decide +kernel

/-- S9: no transport, no write. -/
theorem test_transaction_detached :
    (match executeTransaction { attached := false, writeSucceeds := true, reads := [], interruptAt := none }
        0x27 1 State.reset with
      | .next rep => some (rep.outcome, rep.settleOwed, rep.written)
      | .fault _ => none
      | .refused _ => none) = some (.channelUnavailable, 0, none) := by decide +kernel

/-! ## Witnesses: a concrete input that meets the hypotheses of each statement -/

/-- A state with a sealed request and a checked reply. -/
def liveState : State :=
  { sealedState Config.standard countersRequest with rx := { packetOf batteryReply with valid := true } }

theorem liveState_inv : Inv liveState where
  sealed_len := by decide +kernel
  unsealed_len := by decide +kernel
  sealed_trailer := fun _ => by decide +kernel
  valid_tx_sealed := by decide +kernel
  valid_rx_len := by decide +kernel
  valid_packet := by intro b; cases b <;> decide +kernel
  canonical := by intro b; cases b <;> decide +kernel
  written := by
    have h : ∀ b, ∀ i < liveState.len b, ((liveState.buf b).bytes.read i).isSome = true := by
      intro b
      cases b <;> decide +kernel
    exact h
  strap := rfl

theorem witness_EncodedInstructionDecodes :
    Config.standard.codesDistinct ∧
      (Instr.frameRepReadCounters 0xDEADBEEF (List.replicate 16 0xFF) 0xFFFF).wellFormed = true := by decide +kernel

theorem witness_DecodedEventIsTheOnlyEncoding :
    decode Config.standard .A (.frame uipReply) =
      .ok (.frameRepReadUip 1 [0x22, 0x95, 0x01, 0x37, 0x03, 0x12, 0x00] 0xFFBC) := by decide +kernel

theorem witness_WordDecodesIffARowSelectsIt : ∃ row ∈ opRows, row.selects 0xB1FF00000000 :=
  ⟨⟨"GET.DT", 0xB00000000000, 0xFE00FFFFFFFF⟩, by decide +kernel, by decide +kernel⟩

theorem witness_StepRunsThePresentedInstruction :
    ∃ (s : State) (e : PortEvent) (rest : List PortEvent) (i : Instr), s.port = e :: rest ∧ decode s.cfg s.variant e = .ok i :=
  ⟨{ State.reset with port := [.word 0x180000000000] }, .word 0x180000000000, [], .crcClr, rfl, by decide +kernel⟩

theorem witness_IllegalWordSetsErrOnly :
    ∃ s : State, s.port = [.word 0xB80000000000] ∧ ∀ row ∈ opRows, ¬row.selects 0xB80000000000 :=
  ⟨{ State.reset with port := [.word 0xB80000000000] }, rfl, by decide +kernel⟩

theorem witness_IdlePortChangesNothing : liveState.port = [] := rfl

theorem witness_ResetEventLeavesResetValues :
    ({ liveState with port := [.reset .B, .word 0] } : State).port = .reset .B :: [.word 0] := rfl

theorem witness_EveryStepKeepsInv :
    Inv liveState ∧ step liveState = .next liveState := ⟨liveState_inv, rfl⟩

theorem witness_OnlyResetChangesVariant :
    (∃ t, step { liveState with port := [.word 0x280000000000] } = .next t) ∧
      ∀ strap rest, ({ liveState with port := [.word 0x280000000000] } : State).port ≠ .reset strap :: rest :=
  ⟨⟨_, rfl⟩, by simp⟩

theorem witness_FaultChangesOnlyErr :
    (effects (.getW .rx 0)).operation = true ∧
      ∃ t, exec (.getW .rx 0) liveState = .next t ∧ t.err.isFault = true := ⟨rfl, _, rfl, by decide +kernel⟩

theorem witness_EveryInstructionIsAccepted : Inv liveState := liveState_inv

theorem witness_OperationsRaiseOnlyTheirCodes :
    (effects (.pktCheck .rx)).operation = true ∧ ∃ t, exec (.pktCheck .rx) liveState = .next t := ⟨rfl, _, rfl⟩

theorem witness_StateIsWrittenOnlyByItsOperations :
    (effects .frmSeal).operation = true ∧ (effects .frmSeal).r = false ∧ (effects .frmSeal).dt = false ∧
      (effects .frmSeal).acc = false ∧ (effects (.getB .tx 0)).isSealed = false ∧ Buf.rx ∉ (effects .frmSeal).len ∧
      Buf.rx ∉ (effects .frmSeal).valid ∧ Buf.rx ∉ (effects .frmSeal).bytes ∧
      ∃ t, exec .frmSeal (openState Config.standard [0, 0, 0, 1, 0x27]) = .next t :=
  ⟨rfl, rfl, rfl, rfl, rfl, by decide, by decide, by decide, _, rfl⟩

theorem witness_SealedPacketIsImmutable :
    liveState.isSealed = true ∧ (∀ c a, Instr.frmPay 1 ≠ .frmHdr c a) ∧ (∀ c a, Instr.frmPay 1 ≠ .request c a) ∧
      ∃ t, exec (.frmPay 1) liveState = .next t :=
  ⟨rfl, by simp, fun c a => by cases c <;> simp [Instr.request], _, rfl⟩

theorem witness_ReadOperationsAreIdempotent :
    (effects (.pktCheck .tx)).readsOnly = true ∧ ∃ t, exec (.pktCheck .tx) liveState = .next t := ⟨rfl, _, rfl⟩

theorem witness_ValidFlagIsNeverRead :
    (got (exec (.pktCheck .rx) liveState) (fun t => t.err.isFault) = some false ∧ Buf.rx ∈ (effects (.pktCheck .rx)).valid) ∧
      (got (exec (.pktCheck .tx) State.reset) (fun t => t.err.isFault) = some true) ∧
      (got (exec (.request .readTime 1) liveState) (fun t => t.err) = some .none) ∧
      got (exec (.reply .readTariff 1 [0] 0) liveState) (fun t => t.err) = some .none := by decide +kernel

/-- R16: a failed check clears the flag that an earlier check set. -/
theorem test_failed_check_clears_flag :
    got (exec (.pktCheck .rx) ((rxState Config.standard (batteryReply.set 8 0x0A)).setValid .rx true))
      (fun t => (t.rx.valid, t.r, t.err)) = some (false, 0, .corruptReply) := by decide +kernel

/-- Two states that differ in an unreachable byte. -/
theorem witness_UnwrittenBytesAreUnobservable :
    liveState.setBuf .tx { liveState.tx with bytes := liveState.tx.bytes.write 22 0xAA } ≠ liveState ∧
      Unobservable (liveState.setBuf .tx { liveState.tx with bytes := liveState.tx.bytes.write 22 0xAA }) liveState := by
  refine ⟨by decide +kernel, ⟨rfl, rfl, rfl, rfl, rfl, rfl, rfl, rfl, fun b => ⟨?_, ?_, ?_⟩⟩⟩
  · cases b <;> rfl
  · cases b <;> rfl
  · cases b
    · intro i hi
      exact (readByte_store liveState .tx .tx 22 [0xAA] liveState.tx.len liveState.tx.valid i).trans
        (if_neg fun h => by
          have : i < 7 := hi
          omega)
    · intro i _
      rfl

theorem witness_BcdDecResult : (8 : Byte).toNat ≤ 8 := by decide
theorem witness_BcdDecAboveEightFaults : 8 < (9 : Byte).toNat := by decide
theorem witness_BcdValueIsBounded : 8 ≤ 8 ∧ bad 0x99999999 8 = false := by decide +kernel

theorem witness_CrcUpdResult : State.reset.variant = .A ∧ (State.resetOf profileB).variant = .B := ⟨rfl, rfl⟩

theorem witness_CrcStepIsInvertible :
    Config.standard.polyA.getLsbD 15 = true ∧ Config.standard.polyB.getLsbD 0 = true := by decide

theorem witness_CrcGetResult : State.reset.variant = .A ∧ (State.resetOf profileB).variant = .B := ⟨rfl, rfl⟩

theorem readable_tx : Readable liveState .tx := ⟨fun _ => rfl, by decide +kernel⟩
theorem readable_rx : Readable liveState .rx := ⟨fun _ => rfl, by decide +kernel⟩

theorem witness_CrcFrameResult : Readable liveState .tx ∧ Readable liveState .rx := ⟨readable_tx, readable_rx⟩

theorem witness_LenResolveResult : liveState.cfg.codesDistinct := by decide +kernel

theorem witness_LenResolveUnknownCodeFaults :
    (0x28 : Byte) ∉ [liveState.cfg.cmdReadTime, liveState.cfg.cmdReadPower, liveState.cfg.cmdReadCounters,
      liveState.cfg.cmdReadBattery, liveState.cfg.cmdReadTariffs, liveState.cfg.cmdReadTariff, liveState.cfg.cmdReadUip,
      liveState.cfg.cmdReadLineParams] := by decide +kernel

/-- An open packet with the last room for a payload byte. -/
theorem witness_FrmPayResult :
    OpenPacket (openState Config.standard (List.replicate 20 0)) ∧
      (openState Config.standard (List.replicate 20 0)).len .tx < 21 := ⟨⟨rfl, by decide +kernel⟩, by decide +kernel⟩

/-- An open packet with no room but for its trailer. -/
theorem witness_FrmSealResult :
    OpenPacket (openState Config.standard (List.replicate 21 0)) ∧
      (openState Config.standard (List.replicate 21 0)).len .tx ≤ 21 := ⟨⟨rfl, by decide +kernel⟩, by decide +kernel⟩

theorem witness_FrameStateFaults :
    liveState.isSealed = true ∧ State.reset.len .tx = 0 ∧ State.reset.isSealed = false := ⟨rfl, rfl, rfl⟩

theorem witness_DfrPushResult : (rxState Config.standard (List.replicate 22 0)).len .rx < 23 := by decide +kernel

theorem witness_FrameOverflowDropsTheByte :
    OpenPacket (openState Config.standard (List.replicate 21 0)) ∧
      21 ≤ (openState Config.standard (List.replicate 21 0)).len .tx ∧
      (rxState Config.standard (List.replicate 23 0)).len .rx = 23 :=
  ⟨⟨rfl, by decide +kernel⟩, by decide +kernel, by decide +kernel⟩

theorem witness_PktCheckResult : Readable liveState .tx ∧ Readable liveState .rx := ⟨readable_tx, readable_rx⟩

theorem witness_BufRdResult : (8 : Byte).toNat < liveState.len .rx ∧ liveState.len .rx ≤ (9 : Byte).toNat := by
  decide +kernel

theorem witness_PacketChecksComeInOrder :
    State.reset.isSealed = false ∧ State.reset.len .rx < 7 ∧
      ((Buf.rx = .tx → State.reset.isSealed = true)) ∧ Readable liveState .rx ∧
      liveState.len .rx - 2 < 5 + (2 : Byte).toNat + 1 := by
  exact ⟨rfl, by decide +kernel, by simp, readable_rx, by decide +kernel⟩

theorem witness_EnvelopeFieldsResult : Readable liveState .tx ∧ Readable liveState .rx := ⟨readable_tx, readable_rx⟩

theorem readable_uip (cfg : Config) : Readable (rxState cfg uipReply) .rx := ⟨by simp, show 7 ≤ 14 by decide⟩

/-- The last legal offset of each width. -/
theorem witness_PayloadFieldsResult :
    FieldInside (rxState Config.standard uipReply) .rx (6 : Byte).toNat 1 ∧
      FieldInside (rxState Config.standard uipReply) .rx (5 : Byte).toNat 2 ∧
      FieldInside (rxState Config.standard uipReply) .rx (3 : Byte).toNat 4 :=
  ⟨⟨readable_uip _, by decide +kernel⟩, ⟨readable_uip _, by decide +kernel⟩, ⟨readable_uip _, by decide +kernel⟩⟩

theorem witness_TripleResult :
    FieldInside (rxState Config.standard uipReply) .rx (4 : Byte).toNat 3 ∧
      (rxState Config.standard uipReply).cfg.tripleLayout = .segmentLe ∧
      FieldInside (rxState profileBig uipReply) .rx (4 : Byte).toNat 3 ∧
      (rxState profileBig uipReply).cfg.tripleLayout = .bigEndian :=
  ⟨⟨readable_uip _, by decide +kernel⟩, rfl, ⟨readable_uip _, by decide +kernel⟩, rfl⟩

theorem witness_GetDtResult : FieldInside (rxState Config.standard uipReply) .rx (0 : Byte).toNat 7 :=
  ⟨readable_uip _, by decide +kernel⟩

theorem witness_MixedWidthsSeeTheSameByte :
    (∀ i ∈ [Instr.getB .rx 2, .getH .rx 2, .getW .rx 2, .getT .rx 2],
      got (exec i (rxState Config.standard uipReply)) State.err = some .none) ∧
      (rxState Config.standard uipReply).cfg.tripleLayout = .segmentLe := by decide +kernel

theorem witness_ReplyFrameResult :
    ([] ++ List.replicate 7 0 : List Byte).length = 7 ∧ (List.replicate 4 0 : List Byte).length = 4 ∧
      (List.replicate 16 0 : List Byte).length = 16 ∧ (List.replicate 2 0 : List Byte).length = 2 ∧
      (List.replicate 1 0 : List Byte).length = 1 ∧ (List.replicate 10 0 : List Byte).length = 10 := by decide

theorem witness_PacketRoundTrip : (List.replicate 16 0xFF : List Byte).length ≤ 16 := by decide

/-- More payload bytes than fit: the packet built is still valid. -/
theorem test_long_build_is_valid :
    got (runPseudo (.build 0x27 1 (List.replicate 18 0xFF)) liveState) (fun t => (t.len .tx, t.isSealed, packetValid t .tx)) =
      some (23, true, true) := by decide +kernel


/-- The last bit of the trailer of the longest packet. -/
theorem witness_SingleBitErrorIsDetected :
    liveState.cfg.polyA.getLsbD 15 = true ∧ liveState.cfg.polyB.getLsbD 0 = true ∧
      got (runPseudo (.build 0x27 1 (List.replicate 16 0xFF)) liveState) (fun t => decide (22 < t.len .tx)) = some true ∧
      7 < 8 := by decide +kernel

theorem witness_LayoutFieldsAreReadable :
    (List.replicate 16 0x99 : List Byte).length = replyPayload .readCounters ∧
      (got (exec (.reply .readCounters 1 (List.replicate 16 0x99) 0) State.reset) (fun t => t.len .rx)) = some 23 ∧
      (⟨12, 4, .energyCounter 3, .bcd8⟩ : PayloadField) ∈ layout .readCounters := by decide +kernel

/-- A reply that the check found valid, and one it did not look at. -/
theorem witness_LayoutFieldsAreReadable_extraction :
    (rxState Config.standard uipReply).rx.valid = false ∧
      got (exec (.reply .readUip 1 [0x22, 0x95, 0x01, 0x37, 0x03, 0x12, 0x00] 0xFFBC) State.reset)
        (fun t => got (exec (.pktCheck .rx) t) (fun u => u.r)) = some (some 1) := by decide +kernel

/-- P7: the three fields of the checked `READ_UIP` reply. -/
theorem test_extract_uip :
    (match extractReply .readUip ((rxState Config.standard uipReply).setValid .rx true) with
      | .next p => some (p.1.map fun x => (x.quantity, x.value))
      | .fault _ => none
      | .refused _ => none) =
      some [(.voltage, some (.number 2295)), (.current, some (.number 137)), (.power, some (.number 312))] := by
  decide +kernel

/-- V27, S11 in small: a transaction delivers the battery voltage 3.15 of a validated reply and nothing of a corrupt one. -/
theorem test_transaction_delivers :
    (match transactAndExtract
        { attached := true, writeSucceeds := true, reads := [.data batteryReply], interruptAt := none } 0x29 1 State.reset with
      | .next d => some (d.report.outcome, d.fields.map FieldResult.value)
      | .fault _ => none
      | .refused _ => none) = some (.validated, [some (.number 315)]) ∧
    (match transactAndExtract
        { attached := true, writeSucceeds := true, reads := [.data (batteryReply.set 8 0x0A)], interruptAt := none }
        0x29 1 State.reset with
      | .next d => some (d.report.outcome, d.fields)
      | .fault _ => none
      | .refused _ => none) = some (.corruptReply, []) := by decide +kernel

/-- S11 in small: a `READ_BATTERY` transaction whose reply arrives in two pieces. -/
theorem witness_ValidatedTransactionHoldsAValidReply :
    (match executeTransaction
        { attached := true, writeSucceeds := true, reads := [.data (batteryReply.take 4), .data (batteryReply.drop 4)],
          interruptAt := none } 0x29 1 State.reset with
      | .next rep => some (rep.outcome, rep.block.len .rx)
      | .fault _ => none
      | .refused _ => none) = some (.validated, 9) := by decide +kernel

theorem witness_SettlingDelayIsOwedAfterAWrite :
    (match executeTransaction { attached := true, writeSucceeds := false, reads := [], interruptAt := some 3 }
        0x29 1 State.reset with
      | .next rep => some (rep.outcome, rep.settleOwed, rep.waited, rep.written.isSome)
      | .fault _ => none
      | .refused _ => none) = some (.writeFailed, 100, 3, true) := by decide +kernel

end Sys2Proof.Tests
end

section
/-! PROOFS. No instruction writes `VARIANT`, the configuration or the port (spec/10_state.md R10, R18; spec/00_scope.md
R8), and what follows for a step. -/

namespace Sys2Proof.Machine

/-- The part of the state that no instruction writes. -/
def State.fixedPart (s : State) : Variant × Config × List PortEvent := (s.variant, s.cfg, s.port)

section Updates

variable (s : State)

@[simp] theorem State.setR_fixedPart (v : Word) : (s.setR v).fixedPart = s.fixedPart := rfl
@[simp] theorem State.setDt_fixedPart (d : DateTime) : (s.setDt d).fixedPart = s.fixedPart := rfl
@[simp] theorem State.setAcc_fixedPart (v : Half) : (s.setAcc v).fixedPart = s.fixedPart := rfl
@[simp] theorem State.setSealed_fixedPart (v : Bool) : (s.setSealed v).fixedPart = s.fixedPart := rfl
@[simp] theorem State.setErr_fixedPart (e : ErrCode) : (s.setErr e).fixedPart = s.fixedPart := rfl
@[simp] theorem State.setBuf_fixedPart (b : Buf) (p : Packet) : (s.setBuf b p).fixedPart = s.fixedPart := by
  cases b <;> rfl
@[simp] theorem State.setValid_fixedPart (b : Buf) (v : Bool) : (s.setValid b v).fixedPart = s.fixedPart := by
  cases b <;> rfl
@[simp] theorem State.changed_fixedPart (b : Buf) (n : Nat) : (s.changed b n).fixedPart = s.fixedPart := by
  cases b <;> rfl

end Updates

section Operations

variable {s t u : State}

/-- An outcome given by updates that keep the fixed part keeps it. -/
theorem fixedPart_of_next (h : (.next u : Result) = .next t) (hu : u.fixedPart = s.fixedPart) :
    t.fixedPart = s.fixedPart := by
  cases h
  exact hu

/-- A guarded operation keeps the fixed part when its body does: a refusal writes only `ERR` (R183). -/
theorem guarded_fixedPart {o : Option ErrCode} (h : guarded o s (.next u) = .next t)
    (hu : u.fixedPart = s.fixedPart) : t.fixedPart = s.fixedPart := by
  rcases guarded_eq_next.mp h with ⟨e, -, rfl⟩ | ⟨-, hbody⟩
  · exact s.setErr_fixedPart e
  · exact fixedPart_of_next hbody hu

theorem startPacket_fixedPart {c : Byte} {a : Word} (h : startPacket c a s = .next t) :
    t.fixedPart = s.fixedPart := by
  rw [startPacket_eq] at h
  exact fixedPart_of_next h (by simp)

theorem execFrmPay_fixedPart {x : Byte} (h : execFrmPay x s = .next t) : t.fixedPart = s.fixedPart := by
  rcases execFrmPay_cases h with ⟨-, rfl⟩ | ⟨-, -, rfl⟩ | ⟨-, -, rfl⟩ <;> simp

theorem sealPacket_fixedPart (h : sealPacket s = .next t) : t.fixedPart = s.fixedPart := by
  rcases execFrmSeal_cases h with ⟨-, rfl⟩ | ⟨-, -, rfl⟩ <;> simp

theorem clearReply_fixedPart (h : clearReply s = .next t) : t.fixedPart = s.fixedPart :=
  fixedPart_of_next h (by simp)

theorem pushReply_fixedPart {x : Byte} (h : pushReply x s = .next t) : t.fixedPart = s.fixedPart := by
  rw [pushReply_eq] at h
  split at h <;> exact fixedPart_of_next h (by simp)

theorem pushAll_fixedPart {xs : List Byte} (h : pushAll xs s = .next t) : t.fixedPart = s.fixedPart := by
  induction xs generalizing s with
  | nil => exact fixedPart_of_next h rfl
  | cons x xs ih =>
    obtain ⟨u, hpush, hrest⟩ := andThen_eq_next.mp h
    exact (ih hrest).trans (pushReply_fixedPart hpush)

theorem buildRequest_fixedPart {c : Command} {a : Word} (h : buildRequest c a s = .next t) :
    t.fixedPart = s.fixedPart := by
  obtain ⟨u, hstart, hseal⟩ := andThen_eq_next.mp h
  exact (sealPacket_fixedPart hseal).trans (startPacket_fixedPart hstart)

theorem receiveReply_fixedPart {c : Command} {a : Word} {p : List Byte} {x : Half}
    (h : receiveReply c a p x s = .next t) : t.fixedPart = s.fixedPart := by
  unfold receiveReply receiveBytes at h
  obtain ⟨u, hclear, hpush⟩ := andThen_eq_next.mp h
  exact (pushAll_fixedPart hpush).trans (clearReply_fixedPart hclear)

theorem execBcdDec_fixedPart {n : Byte} {v : Word} (h : execBcdDec n v s = .next t) :
    t.fixedPart = s.fixedPart := by
  unfold execBcdDec at h
  split at h <;> exact fixedPart_of_next h (by simp)

theorem execLenResolve_fixedPart {c : Byte} (h : execLenResolve c s = .next t) : t.fixedPart = s.fixedPart := by
  unfold execLenResolve at h
  split at h <;> exact fixedPart_of_next h (by simp)

theorem execBufRd_fixedPart {b : Buf} {i : Byte} (h : execBufRd b i s = .next t) : t.fixedPart = s.fixedPart := by
  unfold execBufRd at h
  split at h <;> exact fixedPart_of_next h (by simp)

/-- R10, R18: no instruction writes `VARIANT`, the configuration or the port. -/
theorem exec_fixedPart {i : Instr} (h : exec i s = .next t) : t.fixedPart = s.fixedPart := by
  cases i with
  | bcdDec n v => exact execBcdDec_fixedPart h
  | lenResolve c => exact execLenResolve_fixedPart h
  | bufRd b i => exact execBufRd_fixedPart h
  | bcdDec8 _ | crcClr | crcUpd _ | crcGet => exact fixedPart_of_next h (by simp)
  | crcFrame _ | pktCheck _ | getAddr _ | getCmd _ | getCrc _ | getB _ _ | getH _ _ | getT _ _ | getW _ _ | getDt _ _ =>
    exact guarded_fixedPart h (by simp)
  | frmHdr c a => exact startPacket_fixedPart h
  | frmPay x => exact execFrmPay_fixedPart h
  | frmSeal => exact sealPacket_fixedPart h
  | dfrClr => exact clearReply_fixedPart h
  | dfrPush x => exact pushReply_fixedPart h
  | frameReqReadTime _ | frameReqReadPower _ | frameReqReadCounters _ | frameReqReadBattery _ | frameReqReadTariffs _
  | frameReqReadTariff _ | frameReqReadUip _ | frameReqReadLineParams _ => exact buildRequest_fixedPart h
  | frameRepReadTime _ _ _ | frameRepReadPower _ _ _ | frameRepReadCounters _ _ _ | frameRepReadBattery _ _ _
  | frameRepReadTariffs _ _ _ | frameRepReadTariff _ _ _ | frameRepReadUip _ _ _ | frameRepReadLineParams _ _ _ =>
    simp only [exec] at h
    exact receiveReply_fixedPart h

/-- Every way to serve a presented event and answer a next state: the reset (R210), the instruction the event decodes to
(R41), or the report of an illegal word (R185). -/
theorem present_eq_next {e : PortEvent} (h : present e s = .next t) :
    (∃ strap, e = .reset strap ∧ t = (State.resetOf (s.cfg.strapped strap)).setPort s.port) ∨
      (∃ i, decode s.cfg s.variant e = .ok i ∧ exec i s = .next t) ∨
      (∃ w why, e = .word w ∧ decodeWord w = .error why ∧ t = s.setErr .illegalOp) := by
  cases e with
  | reset strap =>
    simp only [present, resetEvent, Host.Outcome.next.injEq] at h
    exact .inl ⟨strap, rfl, h.symm⟩
  | word w =>
    simp only [present] at h
    split at h
    · rename_i i hdecode
      exact .inr (.inl ⟨i, hdecode, h⟩)
    · rename_i why hdecode
      exact .inr (.inr ⟨w, why, rfl, hdecode, (Host.Outcome.next.inj h).symm⟩)
  | frame bytes =>
    simp only [present] at h
    split at h
    · rename_i i hdecode
      exact .inr (.inl ⟨i, hdecode, h⟩)
    · cases h

/-- Serving any event but the reset keeps `VARIANT`, the configuration and the rest of the port. -/
theorem present_fixedPart {e : PortEvent} (h : present e s = .next t) (hreset : ∀ strap, e ≠ .reset strap) :
    t.fixedPart = s.fixedPart := by
  rcases present_eq_next h with ⟨strap, rfl, -⟩ | ⟨i, -, hexec⟩ | ⟨w, why, -, -, rfl⟩
  · exact absurd rfl (hreset strap)
  · exact exec_fixedPart hexec
  · simp

/-- R8, R18: a step that does not serve the reset event keeps `VARIANT` and the configuration. -/
theorem step_keeps_variant_cfg (h : step s = .next t) (hreset : ∀ strap rest, s.port ≠ .reset strap :: rest) :
    t.variant = s.variant ∧ t.cfg = s.cfg := by
  cases hport : s.port with
  | nil =>
    rw [step_idle hport] at h
    cases h
    exact ⟨rfl, rfl⟩
  | cons e rest =>
    rw [step_cons hport] at h
    have hfixed := present_fixedPart h fun strap he => hreset strap rest (he ▸ hport)
    simp only [State.fixedPart, State.setPort_variant, State.setPort_cfg, Prod.mk.injEq] at hfixed
    obtain ⟨hvariant, hcfg, -⟩ := hfixed
    exact ⟨hvariant, hcfg⟩

/-- R8: a step that serves the reset event changes the strap of the configuration and nothing else of it. -/
theorem step_reset_cfg {strap : Variant} {rest : List PortEvent} (hport : s.port = .reset strap :: rest)
    (h : step s = .next t) : t.cfg = s.cfg.strapped strap := by
  rw [step_cons hport, present, resetEvent, Host.Outcome.next.injEq] at h
  rw [← h]
  rfl

end Operations

/-- Settles O12: no instruction writes the fixed part of the state, and the reset event writes only the strap. -/
theorem onlyResetChangesVariant : Obligations.OnlyResetChangesVariant := by
  unfold Obligations.OnlyResetChangesVariant
  intro s t h
  refine ⟨?_, step_keeps_variant_cfg h⟩
  by_cases hreset : ∃ strap rest, s.port = .reset strap :: rest
  · obtain ⟨strap, rest, hport⟩ := hreset
    rw [step_reset_cfg hport h]
    rfl
  · rw [(step_keeps_variant_cfg h fun strap rest hport => hreset ⟨strap, rest, hport⟩).2]

end Sys2Proof.Machine
end

section
/-! PROOFS. What an operation may write, by the column `written by` of spec/10_state.md R10: one rule per update of the
state, one lemma per operation, and the frame of all 22. -/

namespace Sys2Proof.Machine

/-- Between `s` and `t` nothing changed but `ERR` and what the row `e` names (R10). -/
structure WritesOnly (e : Effects) (s t : State) : Prop where
  r : e.r = false → t.r = s.r
  dt : e.dt = false → t.dt = s.dt
  acc : e.acc = false → t.acc = s.acc
  isSealed : e.isSealed = false → t.isSealed = s.isSealed
  len : ∀ b, b ∉ e.len → t.len b = s.len b
  valid : ∀ b, b ∉ e.valid → (t.buf b).valid = (s.buf b).valid
  bytes : ∀ b, b ∉ e.bytes → (t.buf b).bytes = (s.buf b).bytes

namespace WritesOnly

variable {e : Effects} {s t u : State}

protected theorem refl (e : Effects) (s : State) : WritesOnly e s s where
  r _ := rfl
  dt _ := rfl
  acc _ := rfl
  isSealed _ := rfl
  len _ _ := rfl
  valid _ _ := rfl
  bytes _ _ := rfl

/-- `ERR` is written by every operation (R10, R17), so no row names it. -/
theorem setErr (h : WritesOnly e s t) (c : ErrCode) : WritesOnly e s (t.setErr c) := { h with }

theorem setR (h : WritesOnly e s t) (he : e.r = true) (v : Word) : WritesOnly e s (t.setR v) :=
  { h with r := by simp [he] }

theorem setDt (h : WritesOnly e s t) (he : e.dt = true) (d : DateTime) : WritesOnly e s (t.setDt d) :=
  { h with dt := by simp [he] }

theorem setAcc (h : WritesOnly e s t) (he : e.acc = true) (v : Half) : WritesOnly e s (t.setAcc v) :=
  { h with acc := by simp [he] }

theorem setSealed (h : WritesOnly e s t) (he : e.isSealed = true) (v : Bool) : WritesOnly e s (t.setSealed v) :=
  { h with isSealed := by simp [he] }

/-- A part of a packet outside the list `l` stays when `l` names the packet written, or the write keeps that part. -/
theorem setBuf_part {α : Type} (f : Packet → α) {l : List Buf} {b b' : Buf} {p : Packet} (hb : b' ∉ l)
    (hp : b ∈ l ∨ f p = f (t.buf b)) : f ((t.setBuf b p).buf b') = f (t.buf b') := by
  by_cases hbb : b' = b
  · subst hbb
    rw [State.setBuf_buf_same]
    exact hp.resolve_left hb
  · rw [State.setBuf_buf_other t hbb]

/-- Writing one packet needs its buffer in the row for each part of the packet that changes. -/
theorem setBuf (h : WritesOnly e s t) {b : Buf} {p : Packet} (hlen : b ∈ e.len ∨ p.len = (t.buf b).len)
    (hvalid : b ∈ e.valid ∨ p.valid = (t.buf b).valid) (hbytes : b ∈ e.bytes ∨ p.bytes = (t.buf b).bytes) :
    WritesOnly e s (t.setBuf b p) where
  r he := (t.setBuf_r b p).trans (h.r he)
  dt he := (t.setBuf_dt b p).trans (h.dt he)
  acc he := (t.setBuf_acc b p).trans (h.acc he)
  isSealed he := (t.setBuf_isSealed b p).trans (h.isSealed he)
  len b' hb := (congrArg Fin.val (setBuf_part Packet.len hb hlen)).trans (h.len b' hb)
  valid b' hb := (setBuf_part Packet.valid hb hvalid).trans (h.valid b' hb)
  bytes b' hb := (setBuf_part Packet.bytes hb hbytes).trans (h.bytes b' hb)

/-- A packet of which the row names every part. -/
theorem setBuf_named (h : WritesOnly e s t) {b : Buf} (hlen : b ∈ e.len) (hvalid : b ∈ e.valid) (hbytes : b ∈ e.bytes)
    (p : Packet) : WritesOnly e s (t.setBuf b p) :=
  h.setBuf (.inl hlen) (.inl hvalid) (.inl hbytes)

theorem setValid (h : WritesOnly e s t) {b : Buf} (hvalid : b ∈ e.valid) (v : Bool) :
    WritesOnly e s (t.setValid b v) :=
  h.setBuf (.inr rfl) (.inl hvalid) (.inr rfl)

theorem changed (h : WritesOnly e s t) {b : Buf} (hlen : b ∈ e.len) (hvalid : b ∈ e.valid) (n : Nat) :
    WritesOnly e s (t.changed b n) :=
  (h.setBuf (p := { t.buf b with len := lenOf n }) (.inl hlen) (.inr rfl) (.inr rfl)).setValid hvalid false

/-- An outcome given by updates that the row allows. -/
theorem of_next (h : (.next u : Result) = .next t) (hu : WritesOnly e s u) : WritesOnly e s t := by
  cases h
  exact hu

/-- A guarded operation writes what its body writes: a refusal writes only `ERR` (R183). -/
theorem of_guarded {o : Option ErrCode} (h : guarded o s (.next u) = .next t) (hu : WritesOnly e s u) :
    WritesOnly e s t := by
  rcases guarded_eq_next.mp h with ⟨c, -, rfl⟩ | ⟨-, hbody⟩
  · exact (WritesOnly.refl e s).setErr c
  · exact of_next hbody hu

/-- A value returned in `R` (R11). -/
theorem returned (he : e.r = true) (v : Word) (c : ErrCode) : WritesOnly e s ((s.setR v).setErr c) :=
  ((WritesOnly.refl e s).setR he v).setErr c

/-- A refusal (R183). -/
theorem refused (e : Effects) (s : State) (c : ErrCode) : WritesOnly e s (s.setErr c) := (WritesOnly.refl e s).setErr c

end WritesOnly

section Operations

variable {s t : State}

theorem execBcdDec_writesOnly {n : Byte} {v : Word} (h : execBcdDec n v s = .next t) :
    WritesOnly (effects (.bcdDec n v)) s t := by
  unfold execBcdDec at h
  split at h
  · exact .of_next h (.refused _ s _)
  · exact .of_next h (.returned rfl _ _)

theorem execLenResolve_writesOnly {c : Byte} (h : execLenResolve c s = .next t) :
    WritesOnly (effects (.lenResolve c)) s t := by
  unfold execLenResolve at h
  split at h
  · exact .of_next h (.returned rfl _ _)
  · exact .of_next h (.refused _ s _)

theorem execBufRd_writesOnly {b : Buf} {i : Byte} (h : execBufRd b i s = .next t) :
    WritesOnly (effects (.bufRd b i)) s t := by
  unfold execBufRd at h
  split at h
  · exact .of_next h (.refused _ s _)
  · exact .of_next h (.returned rfl _ _)

theorem execFrmHdr_writesOnly {c : Byte} {a : Word} (h : execFrmHdr c a s = .next t) :
    WritesOnly (effects (.frmHdr c a)) s t := by
  rw [execFrmHdr, startPacket_eq] at h
  exact .of_next h ((((WritesOnly.refl _ s).setBuf_named (.head _) (.head _) (.head _) _).setSealed rfl _).setErr _)

theorem execFrmPay_writesOnly {x : Byte} (h : execFrmPay x s = .next t) : WritesOnly (effects (.frmPay x)) s t := by
  rcases execFrmPay_cases h with ⟨-, rfl⟩ | ⟨-, -, rfl⟩ | ⟨-, -, rfl⟩
  · exact .refused _ s _
  · exact .refused _ s _
  · exact ((WritesOnly.refl _ s).setBuf_named (.head _) (.head _) (.head _) _).setErr _

theorem execFrmSeal_writesOnly (h : execFrmSeal s = .next t) : WritesOnly (effects .frmSeal) s t := by
  rcases execFrmSeal_cases h with ⟨-, rfl⟩ | ⟨-, -, rfl⟩
  · exact .refused _ s _
  · exact (((WritesOnly.refl _ s).setBuf_named (.head _) (.head _) (.head _) _).setSealed rfl _).setErr _

theorem execDfrClr_writesOnly (h : execDfrClr s = .next t) : WritesOnly (effects .dfrClr) s t :=
  .of_next h (((WritesOnly.refl _ s).changed (.head _) (.head _) 0).setErr _)

theorem execDfrPush_writesOnly {x : Byte} (h : execDfrPush x s = .next t) :
    WritesOnly (effects (.dfrPush x)) s t := by
  rw [execDfrPush, pushReply_eq] at h
  split at h
  · exact .of_next h (.refused _ s _)
  · exact .of_next h (((WritesOnly.refl _ s).setBuf_named (.head _) (.head _) (.head _) _).setErr _)

theorem execPktCheck_writesOnly {b : Buf} (h : execPktCheck b s = .next t) :
    WritesOnly (effects (.pktCheck b)) s t :=
  .of_guarded h ((((WritesOnly.refl _ s).setValid (.head _) _).setR rfl _).setErr _)

theorem execGetDt_writesOnly {b : Buf} {k : Byte} (h : execGetDt b k s = .next t) :
    WritesOnly (effects (.getDt b k)) s t :=
  .of_guarded h (((WritesOnly.refl _ s).setDt rfl _).setErr _)

/-- R10: each of the 22 operations writes only what its row names. A wire frame is none of them and has no row. -/
theorem exec_writesOnly {i : Instr} (hop : (effects i).operation = true) (h : exec i s = .next t) :
    WritesOnly (effects i) s t := by
  cases i with
  | bcdDec n v => exact execBcdDec_writesOnly h
  | lenResolve c => exact execLenResolve_writesOnly h
  | bufRd b i => exact execBufRd_writesOnly h
  | bcdDec8 _ | crcGet => exact .of_next h (.returned rfl _ _)
  | crcClr | crcUpd _ => exact .of_next h (((WritesOnly.refl _ s).setAcc rfl _).setErr _)
  | crcFrame _ | getAddr _ | getCmd _ | getCrc _ | getB _ _ | getH _ _ | getT _ _ | getW _ _ =>
    exact .of_guarded h (.returned rfl _ _)
  | getDt b k => exact execGetDt_writesOnly h
  | pktCheck b => exact execPktCheck_writesOnly h
  | frmHdr c a => exact execFrmHdr_writesOnly h
  | frmPay x => exact execFrmPay_writesOnly h
  | frmSeal => exact execFrmSeal_writesOnly h
  | dfrClr => exact execDfrClr_writesOnly h
  | dfrPush x => exact execDfrPush_writesOnly h
  | _ => cases hop

end Operations

/-- Settles O17: the frame of each operation, with the fixed part that no instruction writes. -/
theorem stateIsWrittenOnlyByItsOperations : Obligations.StateIsWrittenOnlyByItsOperations := by
  unfold Obligations.StateIsWrittenOnlyByItsOperations
  intro i s t hop h
  have frame := exec_writesOnly hop h
  have hfixed := exec_fixedPart h
  simp only [State.fixedPart, Prod.mk.injEq] at hfixed
  refine ⟨frame.r, frame.dt, frame.acc, frame.isSealed, fun b => ⟨frame.len b, frame.valid b, fun hb j => ?_⟩, hfixed⟩
  unfold readByte
  rw [frame.bytes b hb]

end Sys2Proof.Machine
end

section
/-! PROOFS. The invariants of spec/10_state.md R24: what they ask of one buffer and of the request, how a run of bytes
stored at or below a length keeps them, and that every step keeps them. -/

namespace Sys2Proof.Machine

theorem Packet.eq_of_parts {p q : Packet} (hbytes : p.bytes = q.bytes) (hlen : p.len = q.len)
    (hvalid : p.valid = q.valid) : p = q := by
  cases p
  cases q
  exact (Packet.mk.injEq ..).mpr ⟨hbytes, hlen, hvalid⟩

/-- Store a run of bytes from index `a` on, which then ends the packet; the flag is cleared (R16). Every operation that
changes a buffer or its length does this (R121 to R125). -/
def Packet.splice (p : Packet) (a : Nat) (bs : List Byte) : Packet where
  bytes := p.bytes.writeList a bs
  len := lenOf (a + bs.length)
  valid := false

/-- The bytes of a packet are in canonical form, and every byte below its length has been written. -/
structure Packet.Stored (p : Packet) : Prop where
  canonical : p.bytes.wf
  written : ∀ i, i < p.len.val → (p.bytes.read i).isSome = true

theorem Packet.empty_stored : Packet.empty.Stored where
  canonical := Memory.nil_wf
  written _ hi := absurd hi (Nat.not_lt_zero _)

theorem Packet.splice_len {p : Packet} {a : Nat} {bs : List Byte} (hfit : a + bs.length ≤ frameMax) :
    (p.splice a bs).len.val = a + bs.length := Nat.min_eq_left hfit

/-- A run that leaves no gap above the written bytes and fits the buffer keeps both properties. -/
theorem Packet.Stored.splice {p : Packet} (h : p.Stored) {a : Nat} {bs : List Byte} (hgap : a ≤ p.len.val)
    (hfit : a + bs.length ≤ frameMax) : (p.splice a bs).Stored where
  canonical := Memory.writeList_wf bs h.canonical hfit
  written i hi := by
    rw [splice_len hfit] at hi
    rw [Packet.splice, Memory.read_writeList]
    by_cases ha : a ≤ i
    · rw [if_pos ⟨ha, hi⟩, List.getElem?_eq_getElem (by omega)]
      rfl
    · rw [if_neg fun hin => ha hin.1]
      exact h.written i (by omega)

/-- What R24 asks of one buffer. -/
structure PacketRules (s : State) (b : Buf) : Prop where
  stored : (s.buf b).Stored
  valid_len : (s.buf b).valid = true → 7 ≤ s.len b
  valid_packet : (s.buf b).valid = true → recomputedTrailer s b = packetTrailer s b

/-- What R24 asks of `SEALED` and the request buffer. -/
structure RequestRules (s : State) : Prop where
  sealed_len : s.isSealed = true → 7 ≤ s.len .tx
  unsealed_len : s.isSealed = false → s.len .tx = 0 ∨ (5 ≤ s.len .tx ∧ s.len .tx ≤ frameMax - 2)
  sealed_trailer : s.isSealed = true → packetTrailer s .tx = recomputedTrailer s .tx
  valid_tx_sealed : s.tx.valid = true → s.isSealed = true

/-- `Inv` is the rules of both buffers, the rules of the request, and the strap. -/
theorem inv_iff {s : State} :
    Inv s ↔ (∀ b, PacketRules s b) ∧ RequestRules s ∧ s.variant = s.cfg.crcVariant := by
  constructor
  · intro h
    refine ⟨fun b => ⟨⟨h.canonical b, h.written b⟩, ?_, h.valid_packet b⟩,
      ⟨h.sealed_len, h.unsealed_len, h.sealed_trailer, h.valid_tx_sealed⟩, h.strap⟩
    cases b with
    | tx => exact fun hvalid => h.sealed_len (h.valid_tx_sealed hvalid)
    | rx => exact h.valid_rx_len
  · rintro ⟨hpackets, hrequest, hstrap⟩
    exact { hrequest with
      valid_rx_len := (hpackets .rx).valid_len
      valid_packet := fun b => (hpackets b).valid_packet
      canonical := fun b => (hpackets b).stored.canonical
      written := fun b => (hpackets b).stored.written
      strap := hstrap }

section Rules

variable {s t : State} {b : Buf}

/-- Two states with the same packet in a buffer have the same stored trailer there. -/
theorem packetTrailer_congr (hbuf : t.buf b = s.buf b) : packetTrailer t b = packetTrailer s b := by
  unfold packetTrailer readByte State.len
  rw [hbuf]

/-- Two states with the same packet in a buffer and the same CRC recompute the same trailer there. -/
theorem recomputedTrailer_congr (hbuf : t.buf b = s.buf b) (hvariant : t.variant = s.variant) (hcfg : t.cfg = s.cfg) :
    recomputedTrailer t b = recomputedTrailer s b := by
  unfold recomputedTrailer State.crcOf readBytes readByte State.len
  rw [hbuf, hvariant, hcfg]

/-- The rules of a buffer read that buffer, `VARIANT` and the configuration alone. -/
theorem PacketRules.congr (h : PacketRules s b) (hbuf : t.buf b = s.buf b) (hvariant : t.variant = s.variant)
    (hcfg : t.cfg = s.cfg) : PacketRules t b where
  stored := hbuf ▸ h.stored
  valid_len hvalid := by
    unfold State.len
    rw [hbuf] at hvalid ⊢
    exact h.valid_len hvalid
  valid_packet hvalid := by
    rw [recomputedTrailer_congr hbuf hvariant hcfg, packetTrailer_congr hbuf]
    exact h.valid_packet (hbuf ▸ hvalid)

/-- The rules of the request read the request buffer, `SEALED`, `VARIANT` and the configuration alone. -/
theorem RequestRules.congr (h : RequestRules s) (htx : t.tx = s.tx) (hsealed : t.isSealed = s.isSealed)
    (hvariant : t.variant = s.variant) (hcfg : t.cfg = s.cfg) : RequestRules t := by
  have hlen : t.len .tx = s.len .tx := congrArg (fun p : Packet => p.len.val) htx
  constructor
  · rw [hsealed, hlen]
    exact h.sealed_len
  · rw [hsealed, hlen]
    exact h.unsealed_len
  · rw [hsealed, packetTrailer_congr (b := .tx) htx, recomputedTrailer_congr (b := .tx) htx hvariant hcfg]
    exact h.sealed_trailer
  · rw [htx, hsealed]
    exact h.valid_tx_sealed

/-- With the flag clear a buffer's rules are about its bytes alone. -/
theorem PacketRules.of_unchecked (hstored : (s.buf b).Stored) (hvalid : (s.buf b).valid = false) : PacketRules s b where
  stored := hstored
  valid_len h := by simp [hvalid] at h
  valid_packet h := by simp [hvalid] at h

/-- An open or absent request. -/
theorem RequestRules.of_unsealed (hsealed : s.isSealed = false) (hvalid : s.tx.valid = false)
    (hlen : s.len .tx = 0 ∨ (5 ≤ s.len .tx ∧ s.len .tx ≤ frameMax - 2)) : RequestRules s where
  sealed_len h := by simp [hsealed] at h
  unsealed_len _ := hlen
  sealed_trailer h := by simp [hsealed] at h
  valid_tx_sealed h := by simp [hvalid] at h

/-- A sealed request. -/
theorem RequestRules.of_sealed (hsealed : s.isSealed = true) (hlen : 7 ≤ s.len .tx)
    (htrailer : packetTrailer s .tx = recomputedTrailer s .tx) : RequestRules s where
  sealed_len _ := hlen
  unsealed_len h := by simp [hsealed] at h
  sealed_trailer _ := htrailer
  valid_tx_sealed _ := hsealed

/-- The invariants read the buffers, `SEALED`, `VARIANT` and the configuration alone. -/
theorem Inv.congr (h : Inv s) (hbuf : ∀ b, t.buf b = s.buf b) (hsealed : t.isSealed = s.isSealed)
    (hvariant : t.variant = s.variant) (hcfg : t.cfg = s.cfg) : Inv t := by
  obtain ⟨hpackets, hrequest, hstrap⟩ := inv_iff.mp h
  exact inv_iff.mpr ⟨fun b => (hpackets b).congr (hbuf b) hvariant hcfg,
    hrequest.congr (hbuf .tx) hsealed hvariant hcfg, by rw [hvariant, hcfg, hstrap]⟩

theorem Inv.setErr (h : Inv s) (e : ErrCode) : Inv (s.setErr e) := h.congr (by simp) rfl rfl rfl

theorem Inv.setR (h : Inv s) (v : Word) : Inv (s.setR v) := h.congr (by simp) rfl rfl rfl

theorem Inv.setPort (h : Inv s) (p : List PortEvent) : Inv (s.setPort p) := h.congr (by simp) rfl rfl rfl

/-- A run of bytes stored in one buffer keeps the invariants when the request's own rules hold afterwards. -/
theorem Inv.splice (h : Inv s) {a : Nat} {bs : List Byte} (hgap : a ≤ s.len b) (hfit : a + bs.length ≤ frameMax)
    (v : Bool) (hrequest : RequestRules ((s.setBuf b ((s.buf b).splice a bs)).setSealed v)) :
    Inv ((s.setBuf b ((s.buf b).splice a bs)).setSealed v) := by
  obtain ⟨hpackets, -, hstrap⟩ := inv_iff.mp h
  refine inv_iff.mpr ⟨fun b' => ?_, hrequest, by simpa using hstrap⟩
  by_cases hb : b' = b
  · subst hb
    have hbuf : ((s.setBuf b' ((s.buf b').splice a bs)).setSealed v).buf b' = (s.buf b').splice a bs := by simp
    refine .of_unchecked ?_ ?_
    · rw [hbuf]
      exact (hpackets b').stored.splice hgap hfit
    · rw [hbuf]
      rfl
  · exact (hpackets b').congr (by simp [State.setBuf_buf_other s hb]) (by simp) (by simp)

/-- The reply buffer is no part of the request's rules. -/
theorem Inv.splice_rx (h : Inv s) {a : Nat} {bs : List Byte} (hgap : a ≤ s.len .rx) (hfit : a + bs.length ≤ frameMax) :
    Inv (s.setBuf .rx (s.rx.splice a bs)) := by
  obtain ⟨-, hrequest, -⟩ := inv_iff.mp h
  exact h.splice hgap hfit s.isSealed (hrequest.congr rfl rfl rfl rfl)

/-- A run stored in the request buffer leaves an open packet when its end is a length of one. -/
theorem Inv.splice_open (h : Inv s) {a : Nat} {bs : List Byte} (hgap : a ≤ s.len .tx) (hlow : 5 ≤ a + bs.length)
    (hhigh : a + bs.length ≤ 21) : Inv ((s.setBuf .tx (s.tx.splice a bs)).setSealed false) := by
  have hfit : a + bs.length ≤ frameMax := hhigh.trans (by decide)
  have hlen : ((s.setBuf .tx (s.tx.splice a bs)).setSealed false).len .tx = a + bs.length := Packet.splice_len hfit
  exact h.splice hgap hfit false (.of_unsealed rfl rfl (.inr ⟨hlen ▸ hlow, hlen ▸ hhigh⟩))

/-- The request with its trailer behind it and `SEALED` set, as `FRM.SEAL` leaves it (R123). -/
def State.withTrailer (s : State) : State :=
  (s.setBuf .tx (s.tx.splice (s.len .tx) (halfBytes (s.crcOf (readBytes s .tx 0 (s.len .tx)))))).setSealed true

theorem State.withTrailer_len (hroom : s.len .tx + 2 ≤ frameMax) : s.withTrailer.len .tx = s.len .tx + 2 :=
  Packet.splice_len (bs := halfBytes _) hroom

/-- Every byte of the request after sealing: the trailer at the old length, the others as before. -/
theorem readByte_withTrailer (s : State) (i : Nat) :
    readByte s.withTrailer .tx i =
      if s.len .tx ≤ i ∧ i < s.len .tx + 2 then
        (halfBytes (s.crcOf (readBytes s .tx 0 (s.len .tx)))).getD (i - s.len .tx) 0
      else readByte s .tx i :=
  (readByte_store s .tx .tx (s.len .tx) _ _ false i).trans (by simp)

/-- R123, R99: the trailer that sealing stores is the one recomputed over every byte before it. -/
theorem packetTrailer_withTrailer (hroom : s.len .tx + 2 ≤ frameMax) :
    packetTrailer s.withTrailer .tx = recomputedTrailer s.withTrailer .tx := by
  have hbefore : readBytes s.withTrailer .tx 0 (s.len .tx) = readBytes s .tx 0 (s.len .tx) :=
    readBytes_congr fun j _ hj => by rw [readByte_withTrailer, if_neg (by omega)]
  have hrecomputed : recomputedTrailer s.withTrailer .tx = s.crcOf (readBytes s .tx 0 (s.len .tx)) := by
    rw [recomputedTrailer, State.withTrailer_len hroom, Nat.add_sub_cancel, hbefore]
    rfl
  rw [hrecomputed, packetTrailer, State.withTrailer_len hroom]
  simp [readByte_withTrailer, halfBytes]

/-- R24: an open packet has its header, and room for its trailer. -/
theorem Inv.open_len (h : Inv s) (hopen : noOpenPacket s = false) :
    s.isSealed = false ∧ 5 ≤ s.len .tx ∧ s.len .tx ≤ 21 := by
  simp only [noOpenPacket, Bool.or_eq_false_iff, beq_eq_false_iff_ne] at hopen
  obtain ⟨hunsealed, hnonempty⟩ := hopen
  exact ⟨hunsealed, (h.unsealed_len hunsealed).resolve_left hnonempty⟩

/-- Sealing an open packet keeps the invariants. -/
theorem Inv.withTrailer (h : Inv s) (hopen : noOpenPacket s = false) : Inv s.withTrailer := by
  obtain ⟨-, hlow, hhigh⟩ := h.open_len hopen
  have hroom : s.len .tx + 2 ≤ frameMax := Nat.add_le_add_right hhigh 2
  have hlen : 7 ≤ s.withTrailer.len .tx := by
    rw [State.withTrailer_len hroom]
    omega
  exact h.splice le_rfl hroom true (.of_sealed rfl hlen (packetTrailer_withTrailer hroom))

@[simp] theorem packetTrailer_setValid (b' : Buf) (v : Bool) :
    packetTrailer (s.setValid b v) b' = packetTrailer s b' := by
  simp [packetTrailer]

@[simp] theorem recomputedTrailer_setValid (b' : Buf) (v : Bool) :
    recomputedTrailer (s.setValid b v) b' = recomputedTrailer s b' := by
  simp [recomputedTrailer, State.crcOf, readBytes]

/-- The flag of a readable packet may say what its check finds (R99); the other buffer is left alone. -/
theorem PacketRules.setValid (h : ∀ b, PacketRules s b) (hcheck : checkPacket s b = none) (b' : Buf) :
    PacketRules (s.setValid b (packetValid s b)) b' := by
  by_cases hb : b' = b
  · subst hb
    have hbuf : (s.setValid b' (packetValid s b')).buf b' = { s.buf b' with valid := packetValid s b' } :=
      s.setBuf_buf_same b' _
    obtain ⟨hcanonical, hwritten⟩ := (h b').stored
    obtain ⟨-, hlen⟩ := checkPacket_eq_none.mp hcheck
    refine ⟨by rw [hbuf]; exact ⟨hcanonical, hwritten⟩, fun _ => by simpa using hlen, fun hvalid => ?_⟩
    rw [hbuf] at hvalid
    simpa using beq_iff_eq.mp hvalid
  · exact (h b').congr (s.setBuf_buf_other hb _) (by simp) (by simp)

/-- `V[TX]` can be set only on a sealed request, because the check of R140 asks for one. -/
theorem RequestRules.setValid (h : RequestRules s) (hcheck : checkPacket s b = none) :
    RequestRules (s.setValid b (packetValid s b)) := by
  cases b with
  | tx =>
    have hsealed := (checkPacket_eq_none.mp hcheck).1 rfl
    exact .of_sealed (by simpa using hsealed) (by simpa using h.sealed_len hsealed)
      (by simpa using h.sealed_trailer hsealed)
  | rx => exact h.congr rfl rfl rfl rfl

/-- R126: setting `V[b]` to what the check of a readable packet finds keeps the invariants. -/
theorem Inv.setValid (h : Inv s) (hcheck : checkPacket s b = none) : Inv (s.setValid b (packetValid s b)) := by
  obtain ⟨hpackets, hrequest, hstrap⟩ := inv_iff.mp h
  exact inv_iff.mpr ⟨PacketRules.setValid hpackets hcheck, hrequest.setValid hcheck, by simpa using hstrap⟩

end Rules

section Operations

variable {s t : State}

/-- An operation whose row of R10 names no part of a packet keeps the invariants. -/
theorem Inv.of_writesOnly {e : Effects} (h : Inv s) (frame : WritesOnly e s t) (hfixed : t.fixedPart = s.fixedPart)
    (hsealed : e.isSealed = false) (hlen : e.len = []) (hvalid : e.valid = []) (hbytes : e.bytes = []) : Inv t := by
  simp only [State.fixedPart, Prod.mk.injEq] at hfixed
  obtain ⟨hvariant, hcfg, -⟩ := hfixed
  have hbuf : ∀ b, t.buf b = s.buf b := fun b =>
    Packet.eq_of_parts (frame.bytes b (by simp [hbytes])) (Fin.ext (frame.len b (by simp [hlen])))
      (frame.valid b (by simp [hvalid]))
  exact h.congr hbuf (frame.isSealed hsealed) hvariant hcfg

theorem startPacket_inv {c : Byte} {a : Word} (h : Inv s) (hstep : startPacket c a s = .next t) : Inv t := by
  rw [startPacket_eq, Host.Outcome.next.injEq] at hstep
  subst hstep
  exact (h.splice_open (bs := wordBytes a ++ [c]) (Nat.zero_le _) (by simp) (by simp)).setErr .none

theorem execFrmPay_inv {x : Byte} (h : Inv s) (hstep : execFrmPay x s = .next t) : Inv t := by
  rcases execFrmPay_cases hstep with ⟨-, rfl⟩ | ⟨-, -, rfl⟩ | ⟨hopen, hroom, rfl⟩
  · exact h.setErr _
  · exact h.setErr _
  · obtain ⟨hunsealed, hlow, -⟩ := h.open_len hopen
    have hinv := h.splice_open (bs := [x]) le_rfl (Nat.le_add_right_of_le hlow) hroom
    have hsame : Inv (s.setBuf .tx (s.tx.splice (s.len .tx) [x])) := hinv.congr (by simp) hunsealed rfl rfl
    exact hsame.setErr .none

theorem sealPacket_inv (h : Inv s) (hstep : sealPacket s = .next t) : Inv t := by
  rcases execFrmSeal_cases hstep with ⟨-, rfl⟩ | ⟨hopen, -, rfl⟩
  · exact h.setErr _
  · exact (h.withTrailer hopen).setErr .none

theorem clearReply_inv (h : Inv s) (hstep : clearReply s = .next t) : Inv t := by
  rw [clearReply, complete_eq, Host.Outcome.next.injEq] at hstep
  subst hstep
  exact (h.splice_rx (a := 0) (bs := []) (Nat.zero_le _) (by simp)).setErr .none

theorem pushReply_inv {x : Byte} (h : Inv s) (hstep : pushReply x s = .next t) : Inv t := by
  rw [pushReply_eq] at hstep
  split at hstep
  · cases hstep
    exact h.setErr _
  · next hne =>
    cases hstep
    have hroom : s.len .rx < frameMax := lt_of_le_of_ne (s.len_le .rx) hne
    exact (h.splice_rx (bs := [x]) le_rfl hroom).setErr .none

theorem pushAll_inv {xs : List Byte} (h : Inv s) (hstep : pushAll xs s = .next t) : Inv t := by
  induction xs generalizing s with
  | nil =>
    cases hstep
    exact h
  | cons x xs ih =>
    obtain ⟨u, hpush, hrest⟩ := andThen_eq_next.mp hstep
    exact ih (pushReply_inv h hpush) hrest

theorem execPktCheck_inv {b : Buf} (h : Inv s) (hstep : execPktCheck b s = .next t) : Inv t := by
  rcases guarded_eq_next.mp hstep with ⟨e, -, rfl⟩ | ⟨hcheck, hbody⟩
  · exact h.setErr e
  · cases hbody
    exact ((h.setValid hcheck).setR _).setErr _

theorem buildRequest_inv {c : Command} {a : Word} (h : Inv s) (hstep : buildRequest c a s = .next t) : Inv t := by
  obtain ⟨u, hstart, hseal⟩ := andThen_eq_next.mp hstep
  exact sealPacket_inv (startPacket_inv h hstart) hseal

theorem receiveReply_inv {c : Command} {a : Word} {p : List Byte} {x : Half} (h : Inv s)
    (hstep : receiveReply c a p x s = .next t) : Inv t := by
  unfold receiveReply receiveBytes at hstep
  obtain ⟨u, hclear, hpush⟩ := andThen_eq_next.mp hstep
  exact pushAll_inv (clearReply_inv h hclear) hpush

/-- R24: every instruction keeps the invariants. -/
theorem exec_inv {i : Instr} (h : Inv s) (hstep : exec i s = .next t) : Inv t := by
  cases i with
  | bcdDec _ _ | bcdDec8 _ | crcClr | crcUpd _ | crcGet | crcFrame _ | lenResolve _ | bufRd _ _ | getAddr _ | getCmd _
  | getCrc _ | getB _ _ | getH _ _ | getT _ _ | getW _ _ | getDt _ _ =>
    exact h.of_writesOnly (exec_writesOnly rfl hstep) (exec_fixedPart hstep) rfl rfl rfl rfl
  | frmHdr c a => exact startPacket_inv h hstep
  | frmPay x => exact execFrmPay_inv h hstep
  | frmSeal => exact sealPacket_inv h hstep
  | dfrClr => exact clearReply_inv h hstep
  | dfrPush x => exact pushReply_inv h hstep
  | pktCheck b => exact execPktCheck_inv h hstep
  | frameReqReadTime _ | frameReqReadPower _ | frameReqReadCounters _ | frameReqReadBattery _ | frameReqReadTariffs _
  | frameReqReadTariff _ | frameReqReadUip _ | frameReqReadLineParams _ => exact buildRequest_inv h hstep
  | frameRepReadTime _ _ _ | frameRepReadPower _ _ _ | frameRepReadCounters _ _ _ | frameRepReadBattery _ _ _
  | frameRepReadTariffs _ _ _ | frameRepReadTariff _ _ _ | frameRepReadUip _ _ _ | frameRepReadLineParams _ _ _ =>
    simp only [exec] at hstep
    exact receiveReply_inv h hstep

/-- R23, R24: the reset state of every configuration satisfies the invariants: both packets are empty, none is open. -/
theorem resetOf_inv (cfg : Config) : Inv (State.resetOf cfg) := by
  refine inv_iff.mpr ⟨fun b => ?_, .of_unsealed rfl rfl (.inl rfl), rfl⟩
  cases b <;> exact .of_unchecked Packet.empty_stored rfl

/-- R24: serving an event keeps the invariants. -/
theorem present_inv {e : PortEvent} (h : Inv s) (hstep : present e s = .next t) : Inv t := by
  rcases present_eq_next hstep with ⟨strap, -, rfl⟩ | ⟨i, -, hexec⟩ | ⟨w, why, -, -, rfl⟩
  · exact (resetOf_inv _).setPort _
  · exact exec_inv h hexec
  · exact h.setErr _

end Operations

/-- Settles O11, by the event the step serves. -/
theorem everyStepKeepsInv : Obligations.EveryStepKeepsInv := by
  unfold Obligations.EveryStepKeepsInv
  intro s t h hstep
  cases hport : s.port with
  | nil =>
    rw [step_idle hport] at hstep
    cases hstep
    exact h
  | cons e rest =>
    rw [step_cons hport] at hstep
    exact present_inv (h.setPort rest) hstep

/-- Settles O10: `State.reset` is the reset state of one of the configurations. -/
theorem resetStateSatisfiesInv : Obligations.ResetStateSatisfiesInv :=
  ⟨resetOf_inv, rfl, resetOf_inv Config.standard⟩

/-- Settles O9: the step is the reset event, whose state is written out by R23. -/
theorem resetEventLeavesResetValues : Obligations.ResetEventLeavesResetValues := by
  unfold Obligations.ResetEventLeavesResetValues
  refine ⟨rfl, fun s strap rest hport => ⟨_, step_cons hport, rfl, rfl, rfl, rfl, rfl, rfl, rfl, ?_, rfl, rfl, rfl, rfl,
    rfl, rfl, rfl, rfl, rfl⟩⟩
  cases strap <;> rfl

end Sys2Proof.Machine
end

section
/-! PROOFS. Bytes at or above a length cannot be observed (spec/20_memory.md R31, R46): what two states that differ at most
there have in common, which updates keep them so, and that every instruction does. -/

namespace Sys2Proof.Machine

section Reads

variable {s t : State} {b : Buf}

/-- The check of R140 reads `SEALED` and the length alone. -/
theorem checkPacket_congr (hsealed : t.isSealed = s.isSealed) (hlen : t.len b = s.len b) :
    checkPacket t b = checkPacket s b := by
  unfold checkPacket
  rw [hsealed, hlen]

/-- The window check of R140 reads `SEALED` and the length alone. -/
theorem checkWindow_congr (hsealed : t.isSealed = s.isSealed) (hlen : t.len b = s.len b) (k w : Nat) :
    checkWindow t b k w = checkWindow s b k w := by
  unfold checkWindow
  rw [checkPacket_congr hsealed hlen, hlen]

/-- R149 looks at the seven bytes of the record alone. -/
theorem badDateTime_congr {x y : Nat → Byte} (h : ∀ j, j < 7 → x j = y j) : badDateTime x = badDateTime y := by
  simp [badDateTime, h]

theorem decodeDateTime_congr {x y : Nat → Byte} (h : ∀ j, j < 7 → x j = y j) :
    decodeDateTime x = decodeDateTime y := by
  simp [decodeDateTime, h]

/-- The check that `BCD.DEC` begins with (R81, R193). -/
def checkDigits (n : Byte) : Option ErrCode := if n.toNat > 8 then some .bcdWidth else none

theorem execBcdDec_eq_guarded (n : Byte) (v : Word) (s : State) :
    execBcdDec n v s = guarded (checkDigits n) s
      (completeFlagged (bad v n.toNat) .bcdDigit (s.setR (BitVec.ofNat 32 (bcd v n.toNat)))) := by
  unfold execBcdDec checkDigits
  split <;> rfl

/-- The check that `BUF.RD` begins with (R127, R191). -/
def checkIndex (s : State) (b : Buf) (i : Byte) : Option ErrCode :=
  if i.toNat ≥ s.len b then some .bufRange else none

theorem checkIndex_eq_none {i : Byte} : checkIndex s b i = none ↔ i.toNat < s.len b := by
  simp [checkIndex]

theorem checkIndex_congr (hlen : t.len b = s.len b) (i : Byte) : checkIndex t b i = checkIndex s b i := by
  unfold checkIndex
  rw [hlen]

theorem execBufRd_eq_guarded (b : Buf) (i : Byte) (s : State) :
    execBufRd b i s = guarded (checkIndex s b i) s (returnValue ((readByte s b i.toNat).setWidth 32) s) := by
  unfold execBufRd checkIndex
  split <;> rfl

end Reads

/-- A packet with the same content as another, told through the buffers that hold them. -/
theorem Packet.SameContent.of_buf {s t s' t' : State} {b : Buf} (h : Packet.SameContent b s t)
    (hs : s'.buf b = s.buf b) (ht : t'.buf b = t.buf b) : Packet.SameContent b s' t' := by
  obtain ⟨hlen, hvalid, hbytes⟩ := h
  unfold State.len at hlen hbytes
  unfold readByte at hbytes
  refine ⟨?_, ?_, ?_⟩ <;> simpa only [State.len, readByte, hs, ht]

namespace Unobservable

variable {s t : State}

protected theorem refl (s : State) : Unobservable s s where
  r := rfl
  dt := rfl
  acc := rfl
  isSealed := rfl
  err := rfl
  variant := rfl
  cfg := rfl
  port := rfl
  content _ := ⟨rfl, rfl, fun _ _ => rfl⟩

section Reads

variable {b : Buf}

theorem len (h : Unobservable s t) (b : Buf) : s.len b = t.len b := (h.content b).len

theorem readByte (h : Unobservable s t) {i : Nat} (hi : i < s.len b) :
    Machine.readByte s b i = Machine.readByte t b i :=
  (h.content b).bytes i hi

theorem checkPacket (h : Unobservable s t) (b : Buf) : Machine.checkPacket s b = Machine.checkPacket t b :=
  checkPacket_congr h.isSealed (h.len b)

theorem checkWindow (h : Unobservable s t) (b : Buf) (k w : Nat) :
    Machine.checkWindow s b k w = Machine.checkWindow t b k w :=
  checkWindow_congr h.isSealed (h.len b) k w

theorem noOpenPacket (h : Unobservable s t) : Machine.noOpenPacket s = Machine.noOpenPacket t := by
  unfold Machine.noOpenPacket
  rw [h.isSealed, h.len]

/-- The CRC of the bytes of a packet up to an index at most its length. -/
theorem crcOf_readBytes (h : Unobservable s t) {n : Nat} (hn : n ≤ s.len b) :
    s.crcOf (readBytes s b 0 n) = t.crcOf (readBytes t b 0 n) := by
  have hbytes : readBytes s b 0 n = readBytes t b 0 n := readBytes_congr fun j _ hj => h.readByte (by omega)
  unfold State.crcOf
  rw [hbytes, h.cfg, h.variant]

theorem recomputedTrailer (h : Unobservable s t) (b : Buf) :
    Machine.recomputedTrailer s b = Machine.recomputedTrailer t b := by
  unfold Machine.recomputedTrailer
  rw [h.crcOf_readBytes (Nat.sub_le ..), h.len]

/-- The trailer of a packet that passes the check of R140, so that it has one. -/
theorem packetTrailer (h : Unobservable s t) (hcheck : Machine.checkPacket s b = none) :
    Machine.packetTrailer s b = Machine.packetTrailer t b := by
  obtain ⟨-, hlen⟩ := checkPacket_eq_none.mp hcheck
  unfold Machine.packetTrailer
  rw [h.readByte (by omega), h.readByte (by omega), h.len]

theorem packetValid (h : Unobservable s t) (hcheck : Machine.checkPacket s b = none) :
    Machine.packetValid s b = Machine.packetValid t b := by
  unfold Machine.packetValid
  rw [h.recomputedTrailer, h.packetTrailer hcheck]

theorem packetAddress (h : Unobservable s t) (hcheck : Machine.checkPacket s b = none) :
    Machine.packetAddress s b = Machine.packetAddress t b := by
  obtain ⟨-, hlen⟩ := checkPacket_eq_none.mp hcheck
  unfold Machine.packetAddress
  rw [h.readByte (by omega), h.readByte (by omega), h.readByte (by omega), h.readByte (by omega)]

theorem packetCommand (h : Unobservable s t) (hcheck : Machine.checkPacket s b = none) :
    Machine.packetCommand s b = Machine.packetCommand t b := by
  obtain ⟨-, hlen⟩ := checkPacket_eq_none.mp hcheck
  exact h.readByte (lt_of_lt_of_le (by decide) hlen)

/-- A byte of a field that passes the window check lies below the length (R140, R46). -/
theorem payloadByte (h : Unobservable s t) {k w j : Nat} (hcheck : Machine.checkWindow s b k w = none) (hj : j < w) :
    Machine.payloadByte s b (k + j) = Machine.payloadByte t b (k + j) := by
  obtain ⟨-, -, hinside⟩ := checkWindow_eq_none.mp hcheck
  refine h.readByte ?_
  unfold payloadBase
  omega

theorem payloadHalf (h : Unobservable s t) {k : Nat} (hcheck : Machine.checkWindow s b k 2 = none) :
    Machine.payloadHalf s b k = Machine.payloadHalf t b k :=
  congrArg₂ be16 (h.payloadByte (j := 0) hcheck (by decide)) (h.payloadByte hcheck (by decide))

theorem payloadTriple (h : Unobservable s t) {k : Nat} (hcheck : Machine.checkWindow s b k 3 = none) :
    Machine.payloadTriple s b k = Machine.payloadTriple t b k := by
  have h0 : Machine.payloadByte s b k = Machine.payloadByte t b k := h.payloadByte (j := 0) hcheck (by decide)
  unfold Machine.payloadTriple
  rw [h0, h.payloadByte hcheck (by decide), h.payloadByte hcheck (by decide), h.cfg]

theorem payloadWord (h : Unobservable s t) {k : Nat} (hcheck : Machine.checkWindow s b k 4 = none) :
    Machine.payloadWord s b k = Machine.payloadWord t b k := by
  have h0 : Machine.payloadByte s b k = Machine.payloadByte t b k := h.payloadByte (j := 0) hcheck (by decide)
  unfold Machine.payloadWord
  rw [h0, h.payloadByte hcheck (by decide), h.payloadByte hcheck (by decide), h.payloadByte hcheck (by decide)]

end Reads

section Updates

variable (h : Unobservable s t)
include h

theorem setErr (e : ErrCode) : Unobservable (s.setErr e) (t.setErr e) :=
  { h with err := rfl, content := fun b => (h.content b).of_buf (by simp) (by simp) }

theorem setR (v : Word) : Unobservable (s.setR v) (t.setR v) :=
  { h with r := rfl, content := fun b => (h.content b).of_buf (by simp) (by simp) }

theorem setDt (d : DateTime) : Unobservable (s.setDt d) (t.setDt d) :=
  { h with dt := rfl, content := fun b => (h.content b).of_buf (by simp) (by simp) }

theorem setAcc (v : Half) : Unobservable (s.setAcc v) (t.setAcc v) :=
  { h with acc := rfl, content := fun b => (h.content b).of_buf (by simp) (by simp) }

theorem setSealed (v : Bool) : Unobservable (s.setSealed v) (t.setSealed v) :=
  { h with isSealed := rfl, content := fun b => (h.content b).of_buf (by simp) (by simp) }

theorem setPort (p : List PortEvent) : Unobservable (s.setPort p) (t.setPort p) :=
  { h with port := rfl, content := fun b => (h.content b).of_buf (by simp) (by simp) }

/-- Replacing a packet in both states by packets of the same content. -/
theorem setBuf {b : Buf} {p q : Packet} (hcontent : Packet.SameContent b (s.setBuf b p) (t.setBuf b q)) :
    Unobservable (s.setBuf b p) (t.setBuf b q) where
  r := by simpa using h.r
  dt := by simpa using h.dt
  acc := by simpa using h.acc
  isSealed := by simpa using h.isSealed
  err := by simpa using h.err
  variant := by simpa using h.variant
  cfg := by simpa using h.cfg
  port := by simpa using h.port
  content b' := by
    by_cases hb : b' = b
    · exact hb ▸ hcontent
    · exact (h.content b').of_buf (State.setBuf_buf_other s hb p) (State.setBuf_buf_other t hb q)

theorem setValid (b : Buf) (v : Bool) : Unobservable (s.setValid b v) (t.setValid b v) :=
  have hcontent : Packet.SameContent b (s.setValid b v) (t.setValid b v) :=
    ⟨by simpa using h.len b, by simp [State.setValid], fun i hi => by simpa using h.readByte (by simpa using hi)⟩
  h.setBuf hcontent

/-- A run of bytes stored at or below the length: what lies below the new length is the run or lay below the old one. -/
theorem splice {b : Buf} {a : Nat} (hgap : a ≤ s.len b) (bs : List Byte) :
    Unobservable (s.setBuf b ((s.buf b).splice a bs)) (t.setBuf b ((t.buf b).splice a bs)) := by
  refine h.setBuf ⟨by simp [State.len, Packet.splice], by simp [Packet.splice], fun i hi => ?_⟩
  have hi' : i < a + bs.length := lt_of_lt_of_le hi (by simp [State.len, Packet.splice])
  rw [Packet.splice, Packet.splice, readByte_store, readByte_store]
  by_cases ha : a ≤ i
  · rw [if_pos ⟨rfl, ha, hi'⟩, if_pos ⟨rfl, ha, hi'⟩]
  · rw [if_neg fun hin => ha hin.2.1, if_neg fun hin => ha hin.2.1]
    exact h.readByte (by omega)

end Updates

end Unobservable

namespace UnobservableOutcome

variable {s t : State}

/-- Sequences go on alike when each part does. -/
theorem andThen {o p : Result} {f g : State → Result} (h : UnobservableOutcome o p)
    (hnext : ∀ u v, Unobservable u v → UnobservableOutcome (f u) (g v)) :
    UnobservableOutcome (Machine.andThen o f) (Machine.andThen p g) := by
  cases o <;> cases p
  case next.next u v => exact hnext u v h
  case fault.fault => exact h
  case refused.refused => exact h
  all_goals exact h.elim

/-- Operations that begin with equal checks refuse alike; their bodies count only where the checks pass. -/
theorem guarded (h : Unobservable s t) {o p : Option ErrCode} {x y : Result} (hcheck : o = p)
    (hbody : o = none → UnobservableOutcome x y) :
    UnobservableOutcome (Machine.guarded o s x) (Machine.guarded p t y) := by
  subst hcheck
  cases o with
  | none => exact hbody rfl
  | some e => exact h.setErr e

theorem returnValue (h : Unobservable s t) {v w : Word} (hvalue : v = w) :
    UnobservableOutcome (Machine.returnValue v s) (Machine.returnValue w t) :=
  hvalue ▸ (h.setR v).setErr .none

end UnobservableOutcome

section Operations

/-- `FRM.PAY` in every state (R122). -/
theorem execFrmPay_eq (x : Byte) (s : State) :
    execFrmPay x s =
      if noOpenPacket s then .next (s.setErr .frameState)
      else if s.len .tx ≥ frameMax - 2 then .next (s.setErr .frameOverflow)
      else .next ((s.setBuf .tx (s.tx.splice (s.len .tx) [x])).setErr .none) := by
  unfold execFrmPay
  split
  · rfl
  · split
    · rfl
    · exact appendByte_of_lt (by omega) x

/-- `FRM.SEAL` in every state, the one ruled out by R24 among them, where the trailer does not fit (R123). -/
theorem sealPacket_eq (s : State) :
    sealPacket s =
      if noOpenPacket s then .next (s.setErr .frameState)
      else if s.len .tx + 2 ≤ frameMax then .next (s.withTrailer.setErr .none)
      else .fault .bufferEnd := by
  unfold sealPacket
  split
  · rfl
  · unfold storeBytes
    rw [halfBytes_length]
    split <;> rfl

variable {s t : State} (h : Unobservable s t)
include h

theorem startPacket_unobservable (c : Byte) (a : Word) :
    UnobservableOutcome (startPacket c a s) (startPacket c a t) := by
  rw [startPacket_eq, startPacket_eq]
  exact ((h.splice (Nat.zero_le _) (wordBytes a ++ [c])).setSealed false).setErr .none

theorem execFrmPay_unobservable (x : Byte) : UnobservableOutcome (execFrmPay x s) (execFrmPay x t) := by
  rw [execFrmPay_eq, execFrmPay_eq, ← h.noOpenPacket, ← h.len .tx]
  split
  · exact h.setErr .frameState
  · split
    · exact h.setErr .frameOverflow
    · exact (h.splice (b := .tx) le_rfl [x]).setErr .none

/-- Sealing reads the bytes below the length and stores the trailer at it (R123). -/
theorem withTrailer_unobservable : Unobservable s.withTrailer t.withTrailer := by
  unfold State.withTrailer
  rw [← h.len .tx, ← h.crcOf_readBytes le_rfl]
  exact (h.splice (b := .tx) le_rfl _).setSealed true

theorem sealPacket_unobservable : UnobservableOutcome (sealPacket s) (sealPacket t) := by
  rw [sealPacket_eq, sealPacket_eq, ← h.noOpenPacket, ← h.len .tx]
  split
  · exact h.setErr .frameState
  · split
    · exact (withTrailer_unobservable h).setErr .none
    · rfl

theorem clearReply_unobservable : UnobservableOutcome (clearReply s) (clearReply t) :=
  (h.splice (b := .rx) (Nat.zero_le _) []).setErr .none

theorem pushReply_unobservable (x : Byte) : UnobservableOutcome (pushReply x s) (pushReply x t) := by
  rw [pushReply_eq, pushReply_eq, ← h.len .rx]
  split
  · exact h.setErr .frameOverflow
  · exact (h.splice (b := .rx) le_rfl [x]).setErr .none

theorem pushAll_unobservable (xs : List Byte) : UnobservableOutcome (pushAll xs s) (pushAll xs t) := by
  induction xs generalizing s t with
  | nil => exact h
  | cons x xs ih => exact (pushReply_unobservable h x).andThen fun u v huv => ih huv

theorem buildRequest_unobservable (c : Command) (a : Word) :
    UnobservableOutcome (buildRequest c a s) (buildRequest c a t) := by
  unfold buildRequest
  rw [← h.cfg]
  exact (startPacket_unobservable h _ a).andThen fun u v huv => sealPacket_unobservable huv

theorem receiveReply_unobservable (c : Command) (a : Word) (p : List Byte) (x : Half) :
    UnobservableOutcome (receiveReply c a p x s) (receiveReply c a p x t) := by
  unfold receiveReply receiveBytes
  rw [← h.cfg]
  exact (clearReply_unobservable h).andThen fun u v huv => pushAll_unobservable huv _

theorem execBcdDec_unobservable (n : Byte) (v : Word) :
    UnobservableOutcome (execBcdDec n v s) (execBcdDec n v t) := by
  rw [execBcdDec_eq_guarded, execBcdDec_eq_guarded]
  exact .guarded h rfl fun _ => (h.setR _).setErr _

theorem execLenResolve_unobservable (c : Byte) : UnobservableOutcome (execLenResolve c s) (execLenResolve c t) := by
  unfold execLenResolve
  rw [← h.cfg]
  split
  · exact .returnValue h rfl
  · exact h.setErr .unsupportedCommand

theorem execBufRd_unobservable (b : Buf) (i : Byte) : UnobservableOutcome (execBufRd b i s) (execBufRd b i t) := by
  rw [execBufRd_eq_guarded, execBufRd_eq_guarded]
  refine .guarded h (checkIndex_congr (h.len b) i) fun hcheck => .returnValue h ?_
  rw [h.readByte (checkIndex_eq_none.mp hcheck)]

theorem execPktCheck_unobservable (b : Buf) : UnobservableOutcome (execPktCheck b s) (execPktCheck b t) := by
  refine .guarded h (h.checkPacket b) fun hcheck => ?_
  rw [← h.packetValid hcheck]
  exact ((h.setValid b _).setR _).setErr _

theorem execGetDt_unobservable (b : Buf) (k : Byte) : UnobservableOutcome (execGetDt b k s) (execGetDt b k t) := by
  refine .guarded h (h.checkWindow b k.toNat 7) fun hcheck => ?_
  have hrecord : ∀ j, j < 7 → payloadByte s b (k.toNat + j) = payloadByte t b (k.toNat + j) :=
    fun j hj => h.payloadByte hcheck hj
  rw [badDateTime_congr hrecord, decodeDateTime_congr hrecord]
  exact (h.setDt _).setErr _

/-- R46: every instruction takes states that differ at most above a length to states that do again, or stops alike. -/
theorem exec_unobservable (i : Instr) : UnobservableOutcome (exec i s) (exec i t) := by
  cases i with
  | bcdDec n v => exact execBcdDec_unobservable h n v
  | bcdDec8 x => exact (h.setR _).setErr _
  | crcClr =>
    simp only [exec, execCrcClr, ← h.cfg, ← h.variant]
    exact (h.setAcc _).setErr _
  | crcUpd x =>
    simp only [exec, execCrcUpd, ← h.cfg, ← h.variant, ← h.acc]
    exact (h.setAcc _).setErr _
  | crcGet => exact .returnValue h (by rw [h.variant, h.acc])
  | crcFrame b =>
    exact .guarded h (h.checkPacket b) fun _ => .returnValue h (congrArg _ (h.recomputedTrailer b))
  | lenResolve c => exact execLenResolve_unobservable h c
  | frmHdr c a => exact startPacket_unobservable h c a
  | frmPay x => exact execFrmPay_unobservable h x
  | frmSeal => exact sealPacket_unobservable h
  | dfrClr => exact clearReply_unobservable h
  | dfrPush x => exact pushReply_unobservable h x
  | pktCheck b => exact execPktCheck_unobservable h b
  | bufRd b i => exact execBufRd_unobservable h b i
  | getAddr b =>
    exact .guarded h (h.checkPacket b) fun hcheck => .returnValue h (h.packetAddress hcheck)
  | getCmd b =>
    exact .guarded h (h.checkPacket b) fun hcheck => .returnValue h (congrArg _ (h.packetCommand hcheck))
  | getCrc b =>
    exact .guarded h (h.checkPacket b) fun hcheck => .returnValue h (congrArg _ (h.packetTrailer hcheck))
  | getB b k =>
    exact .guarded h (h.checkWindow b _ 1) fun hcheck =>
      .returnValue h (congrArg _ (h.payloadByte (j := 0) hcheck (by decide)))
  | getH b k =>
    exact .guarded h (h.checkWindow b _ 2) fun hcheck => .returnValue h (congrArg _ (h.payloadHalf hcheck))
  | getT b k =>
    exact .guarded h (h.checkWindow b _ 3) fun hcheck => .returnValue h (congrArg _ (h.payloadTriple hcheck))
  | getW b k =>
    exact .guarded h (h.checkWindow b _ 4) fun hcheck => .returnValue h (h.payloadWord hcheck)
  | getDt b k => exact execGetDt_unobservable h b k
  | frameReqReadTime a | frameReqReadPower a | frameReqReadCounters a | frameReqReadBattery a | frameReqReadTariffs a
  | frameReqReadTariff a | frameReqReadUip a | frameReqReadLineParams a => exact buildRequest_unobservable h _ a
  | frameRepReadTime a p x | frameRepReadPower a p x | frameRepReadCounters a p x | frameRepReadBattery a p x
  | frameRepReadTariffs a p x | frameRepReadTariff a p x | frameRepReadUip a p x | frameRepReadLineParams a p x =>
    simp only [exec]
    exact receiveReply_unobservable h _ a p x

/-- R46: what an event does depends on nothing at or above a length: decoding reads `VARIANT` and the configuration. -/
theorem present_unobservable (e : PortEvent) : UnobservableOutcome (present e s) (present e t) := by
  cases e with
  | reset strap =>
    have hreset : (State.resetOf (s.cfg.strapped strap)).setPort s.port =
        (State.resetOf (t.cfg.strapped strap)).setPort t.port := by rw [h.cfg, h.port]
    simp only [present, resetEvent, hreset]
    exact Unobservable.refl _
  | word w =>
    simp only [present]
    split
    · exact exec_unobservable h _
    · exact h.setErr .illegalOp
  | frame bytes =>
    simp only [present, ← h.cfg, ← h.variant]
    split
    · exact exec_unobservable h _
    · rfl

end Operations

/-- Settles O21, by the event the step serves. -/
theorem unwrittenBytesAreUnobservable : Obligations.UnwrittenBytesAreUnobservable := by
  unfold Obligations.UnwrittenBytesAreUnobservable
  intro s t h
  cases hport : s.port with
  | nil =>
    rw [step_idle hport, step_idle (h.port ▸ hport)]
    exact h
  | cons e rest =>
    rw [step_cons hport, step_cons (h.port ▸ hport)]
    exact present_unobservable (h.setPort rest) e

end Sys2Proof.Machine
end

section
/-! PROOFS. A read operation writes no part of a packet but `V[s]`, and what it reads it does not write, so that it repeats
to the same state (spec/20_memory.md R38). -/

namespace Sys2Proof.Machine

/-- R10, R38: the row of a read operation names no byte, length, seal or accumulator. -/
theorem effects_of_readsOnly {i : Instr} (h : (effects i).readsOnly = true) :
    (effects i).operation = true ∧ (effects i).bytes = [] ∧ (effects i).len = [] ∧ (effects i).isSealed = false ∧
      (effects i).acc = false := by
  cases i with
  | bcdDec _ _ | bcdDec8 _ | crcGet | crcFrame _ | lenResolve _ | pktCheck _ | bufRd _ _ | getAddr _ | getCmd _
  | getCrc _ | getB _ _ | getH _ _ | getT _ _ | getW _ _ | getDt _ _ => exact ⟨rfl, rfl, rfl, rfl, rfl⟩
  | _ => cases h

/-- Writing the same value and the same code again changes nothing. -/
theorem State.setR_setErr_idem (s : State) (v : Word) (e : ErrCode) :
    (((s.setR v).setErr e).setR v).setErr e = (s.setR v).setErr e := rfl

/-- Writing the same date-time and the same code again changes nothing. -/
theorem State.setDt_setErr_idem (s : State) (d : DateTime) (e : ErrCode) :
    (((s.setDt d).setErr e).setDt d).setErr e = (s.setDt d).setErr e := rfl

/-- What does not depend on the result registers `R` and `ERR`. -/
def IgnoresResult {α : Type} (f : State → α) : Prop := ∀ s v e, f ((s.setR v).setErr e) = f s

namespace IgnoresResult

theorem map {α β : Type} {f : State → α} (h : IgnoresResult f) (g : α → β) : IgnoresResult fun s => g (f s) :=
  fun s v e => congrArg g (h s v e)

theorem checkPacket (b : Buf) : IgnoresResult (Machine.checkPacket · b) :=
  fun _ _ _ => checkPacket_congr rfl (by simp)

theorem checkWindow (b : Buf) (k w : Nat) : IgnoresResult (Machine.checkWindow · b k w) :=
  fun _ _ _ => checkWindow_congr rfl (by simp) k w

theorem checkIndex (b : Buf) (i : Byte) : IgnoresResult (Machine.checkIndex · b i) :=
  fun _ _ _ => checkIndex_congr (by simp) i

theorem readByte (b : Buf) (i : Nat) : IgnoresResult (Machine.readByte · b i) := fun _ _ _ => by simp

theorem recomputedTrailer (b : Buf) : IgnoresResult (Machine.recomputedTrailer · b) :=
  fun _ _ _ => recomputedTrailer_congr (by simp) rfl rfl

theorem packetTrailer (b : Buf) : IgnoresResult (Machine.packetTrailer · b) :=
  fun _ _ _ => packetTrailer_congr (by simp)

theorem packetValid (b : Buf) : IgnoresResult (Machine.packetValid · b) :=
  fun s v e => congrArg₂ (· == ·) (recomputedTrailer b s v e) (packetTrailer b s v e)

theorem packetAddress (b : Buf) : IgnoresResult (Machine.packetAddress · b) :=
  fun _ _ _ => by simp [Machine.packetAddress]

theorem payloadByte (b : Buf) (k : Nat) : IgnoresResult (Machine.payloadByte · b k) := readByte b _

theorem payloadHalf (b : Buf) (k : Nat) : IgnoresResult (Machine.payloadHalf · b k) :=
  fun _ _ _ => by simp [Machine.payloadHalf, Machine.payloadByte]

theorem payloadTriple (b : Buf) (k : Nat) : IgnoresResult (Machine.payloadTriple · b k) :=
  fun _ _ _ => by simp [Machine.payloadTriple, Machine.payloadByte]

theorem payloadWord (b : Buf) (k : Nat) : IgnoresResult (Machine.payloadWord · b k) :=
  fun _ _ _ => by simp [Machine.payloadWord, Machine.payloadByte]

end IgnoresResult

/-- Performed again in the state it left, the operation leaves that state. -/
def Repeats (op : State → Result) : Prop := ∀ s t, op s = .next t → op t = .next t

namespace Repeats

/-- A guarded operation repeats when neither a refusal nor its own effect changes what its check finds, and its effect is
idempotent. -/
theorem guarded {found : State → Option ErrCode} {effect : State → State}
    (hrefused : ∀ s e, found (s.setErr e) = found s)
    (heffect : ∀ s, found s = none → found (effect s) = none ∧ effect (effect s) = effect s) :
    Repeats fun s => Machine.guarded (found s) s (.next (effect s)) := by
  intro s t h
  rcases guarded_eq_next.mp h with ⟨e, hfound, rfl⟩ | ⟨hfound, hnext⟩
  · simp only [hrefused, hfound]
    rfl
  · cases hnext
    obtain ⟨hdone, hidem⟩ := heffect s hfound
    simp only [hdone, hidem]
    rfl

/-- A guarded operation that returns a value in `R` repeats when neither its check nor its value depends on `R` or `ERR`. -/
theorem guarded_returnValue {found : State → Option ErrCode} {value : State → Word} (hfound : IgnoresResult found)
    (hvalue : IgnoresResult value) : Repeats fun s => Machine.guarded (found s) s (returnValue (value s) s) :=
  guarded (effect := fun s => (s.setR (value s)).setErr .none) (fun s e => hfound s s.r e) fun s hs => by
    refine ⟨(hfound s _ _).trans hs, ?_⟩
    simp only [hvalue s]
    exact s.setR_setErr_idem _ _

theorem execBcdDec (n : Byte) (v : Word) : Repeats (execBcdDec n v) := by
  simp only [funext (execBcdDec_eq_guarded n v)]
  exact guarded (fun _ _ => rfl) fun _ hs => ⟨hs, rfl⟩

theorem execLenResolve (c : Byte) : Repeats (execLenResolve c) := by
  intro s t h
  have hcfg : t.cfg = s.cfg := congrArg (·.2.1) (execLenResolve_fixedPart h)
  unfold Machine.execLenResolve at h ⊢
  rw [hcfg]
  split at h <;> cases h <;> rfl

theorem execBufRd (b : Buf) (i : Byte) : Repeats (execBufRd b i) := by
  simp only [funext (execBufRd_eq_guarded b i)]
  exact guarded_returnValue (.checkIndex b i) ((IgnoresResult.readByte b _).map _)

/-- R126: the check reads neither the flag nor the registers it writes. -/
theorem execPktCheck (b : Buf) : Repeats (execPktCheck b) :=
  guarded (fun _ _ => checkPacket_congr rfl (by simp)) fun s hs => by
    have hvalid : ∀ v, packetValid (s.setValid b v) b = packetValid s b := fun v => by simp [packetValid]
    refine ⟨(checkPacket_congr (by simp) (by simp)).trans hs, ?_⟩
    simp only [IgnoresResult.packetValid b _ _ _, hvalid]
    cases b with
    | tx => rfl
    | rx => rfl

/-- R149: the record is read from the buffer, and only `DT_*` and `ERR` are written. -/
theorem execGetDt (b : Buf) (k : Byte) : Repeats (execGetDt b k) :=
  guarded (fun _ _ => checkWindow_congr rfl (by simp) _ _) fun s hs => by
    refine ⟨(checkWindow_congr (by simp) (by simp) _ _).trans hs, ?_⟩
    have hrecord : ∀ d e j, payloadByte ((s.setDt d).setErr e) b j = payloadByte s b j :=
      fun d e j => by simp [payloadByte]
    simp only [hrecord]
    exact s.setDt_setErr_idem _ _

/-- R38: every read operation repeats. -/
theorem exec {i : Instr} (hread : (effects i).readsOnly = true) : Repeats (exec i) := by
  cases i with
  | bcdDec n v => exact execBcdDec n v
  | bcdDec8 x => exact fun s t h => by cases h; rfl
  | crcGet => exact fun s t h => by cases h; rfl
  | crcFrame b => exact guarded_returnValue (.checkPacket b) ((IgnoresResult.recomputedTrailer b).map _)
  | lenResolve c => exact execLenResolve c
  | pktCheck b => exact execPktCheck b
  | bufRd b i => exact execBufRd b i
  | getAddr b => exact guarded_returnValue (.checkPacket b) (.packetAddress b)
  | getCmd b => exact guarded_returnValue (.checkPacket b) ((IgnoresResult.readByte b addrBytes).map _)
  | getCrc b => exact guarded_returnValue (.checkPacket b) ((IgnoresResult.packetTrailer b).map _)
  | getB b k => exact guarded_returnValue (.checkWindow b _ 1) ((IgnoresResult.payloadByte b _).map _)
  | getH b k => exact guarded_returnValue (.checkWindow b _ 2) ((IgnoresResult.payloadHalf b _).map _)
  | getT b k => exact guarded_returnValue (.checkWindow b _ 3) ((IgnoresResult.payloadTriple b _).map _)
  | getW b k => exact guarded_returnValue (.checkWindow b _ 4) (.payloadWord b _)
  | getDt b k => exact execGetDt b k
  | _ => cases hread

end Repeats

/-- Settles O19: the frame of a read operation, and that it repeats. -/
theorem readOperationsAreIdempotent : Obligations.ReadOperationsAreIdempotent := by
  unfold Obligations.ReadOperationsAreIdempotent
  intro i s t hread h
  obtain ⟨hop, hbytes, hlen, hsealed, hacc⟩ := effects_of_readsOnly hread
  have frame := exec_writesOnly hop h
  refine ⟨fun b j => ?_, fun b => frame.len b (by simp [hlen]), frame.isSealed hsealed, frame.acc hacc,
    Repeats.exec hread s t h⟩
  unfold readByte
  rw [frame.bytes b (by simp [hbytes])]

end Sys2Proof.Machine
end

section
/-! PROOFS. What the payload accessors read: the triple under both layouts, and that reads of different widths see the same
byte (spec/20_memory.md R34, R47). -/

namespace Sys2Proof.Machine

section Reads

variable {s t : State} {b : Buf}

/-- The `j`-th byte of a field at payload offset `k`, by its index in the buffer (R58). -/
theorem payloadByte_add (s : State) (b : Buf) (k j : Nat) : payloadByte s b (k + j) = readByte s b (5 + j + k) :=
  congrArg (readByte s b) (show 5 + (k + j) = 5 + j + k by omega)

/-- The triple at payload offset `k`, by the indexes of its bytes in the buffer (R148). -/
theorem payloadTriple_eq (s : State) (b : Buf) (k : Nat) :
    payloadTriple s b k =
      tripleOf s.cfg.tripleLayout (readByte s b (5 + k)) (readByte s b (6 + k)) (readByte s b (7 + k)) := by
  rw [payloadTriple, payloadByte_add, payloadByte_add]
  rfl

theorem tripleOf_segmentLe_toNat (x y z : Byte) :
    (tripleOf .segmentLe x y z).toNat = 2 ^ 16 * z.toNat + 2 ^ 8 * x.toNat + y.toNat := by
  have hlow := (x ++ y : BitVec 16).isLt
  have hpair : (x ++ y : BitVec 16).toNat = 256 * x.toNat + y.toNat := be16_toNat x y
  rw [tripleOf, BitVec.toNat_append, ← Nat.shiftLeft_add_eq_or_of_lt hlow, Nat.shiftLeft_eq, hpair]
  omega

theorem tripleOf_bigEndian_toNat (x y z : Byte) :
    (tripleOf .bigEndian x y z).toNat = 2 ^ 16 * x.toNat + 2 ^ 8 * y.toNat + z.toNat :=
  tripleOf_segmentLe_toNat y z x

/-- Returning a value in `R` changes nothing else but `ERR`. -/
theorem changesOnlyR_returned (s : State) (v : Word) (e : ErrCode) : ChangesOnlyR s ((s.setR v).setErr e) :=
  ⟨rfl, fun b j => by simp⟩

theorem checkWindow_of_fieldInside {k w : Nat} (h : FieldInside s b k w) : checkWindow s b k w = none := by
  obtain ⟨⟨hsealed, hlen⟩, hinside⟩ := h
  exact checkWindow_eq_none.mpr ⟨hsealed, hlen, hinside⟩

/-- `GET.T` of a field inside the payload (R148). -/
theorem execGetT_of_fieldInside {k : Byte} (h : FieldInside s b k.toNat 3) :
    execGetT b k s = .next ((s.setR ((payloadTriple s b k.toNat).setWidth 32)).setErr .none) := by
  rw [execGetT, checkWindow_of_fieldInside h]
  rfl

/-- The window check never finds code 0. -/
theorem checkWindow_ne_some_none (s : State) (b : Buf) (k w : Nat) : checkWindow s b k w ≠ some .none := by
  intro h
  rcases checkWindow_eq_some.mp h with hpacket | ⟨-, -, hcode⟩
  · rcases checkPacket_eq_some.mp hpacket with ⟨-, -, hcode⟩ | ⟨-, -, hcode⟩ <;> cases hcode
  · cases hcode

/-- A field accessor that completes leaves its value in `R` (R11, R182). -/
theorem r_of_window_completed {k w : Nat} {v : Word} (h : guarded (checkWindow s b k w) s (returnValue v s) = .next t)
    (hdone : t.err = .none) : t.r = v := by
  rcases guarded_eq_next.mp h with ⟨e, hfound, rfl⟩ | ⟨-, hreturned⟩
  · cases hdone
    exact absurd hfound (checkWindow_ne_some_none s b k w)
  · cases hreturned
    rfl

end Reads

/-! The first byte of a field, by its place in the value that each width returns (R9, R34). -/

theorem firstByte_of_byte (x : Byte) : (x.setWidth 32).extractLsb' 0 8 = x := by
  ext i hi
  simp
  grind

theorem firstByte_of_half (x y : Byte) : ((be16 x y).setWidth 32).extractLsb' 8 8 = x := by
  ext i hi
  simp [be16_getLsbD]
  grind

theorem firstByte_of_word (x y z w : Byte) : (be32 x y z w).extractLsb' 24 8 = x := by
  unfold be32
  ext i hi
  simp
  grind

theorem firstByte_of_triple (x y z : Byte) : ((tripleOf .segmentLe x y z).setWidth 32).extractLsb' 8 8 = x := by
  unfold tripleOf
  ext i hi
  simp
  grind

/-- Settles O49: the value of the triple under each layout, its bytes at indexes 5, 6 and 7 beyond the offset. -/
theorem tripleResult : Obligations.TripleResult := by
  unfold Obligations.TripleResult
  intro b k s h
  have hvalue : ((payloadTriple s b k.toNat).setWidth 32).toNat =
      (tripleOf s.cfg.tripleLayout (readByte s b (5 + k.toNat)) (readByte s b (6 + k.toNat))
        (readByte s b (7 + k.toNat))).toNat := by
    rw [BitVec.toNat_setWidth_of_le (by decide), payloadTriple_eq]
  refine ⟨_, execGetT_of_fieldInside h, changesOnlyR_returned s _ _, rfl, fun hlayout => ?_, fun hlayout => ?_⟩
  · rw [State.setErr_r, State.setR_r, hvalue, hlayout, tripleOf_segmentLe_toNat]
  · rw [State.setErr_r, State.setR_r, hvalue, hlayout, tripleOf_bigEndian_toNat]

/-- Settles O51: each width puts the byte at its offset first, and each value keeps its first byte at a fixed place. -/
theorem mixedWidthsSeeTheSameByte : Obligations.MixedWidthsSeeTheSameByte := by
  unfold Obligations.MixedWidthsSeeTheSameByte
  intro b k s t hbyte hdone
  have hr : t.r = (payloadByte s b k.toNat).setWidth 32 := r_of_window_completed hbyte hdone
  refine ⟨hr, fun u hhalf hu => ?_, fun u hword hu => ?_, fun hlayout u htriple hu => ?_⟩
  · rw [hr, firstByte_of_byte, r_of_window_completed hhalf hu, payloadHalf, firstByte_of_half]
  · rw [hr, firstByte_of_byte, r_of_window_completed hword hu, payloadWord, firstByte_of_word]
  · rw [hr, firstByte_of_byte, r_of_window_completed htriple hu, payloadTriple, hlayout, firstByte_of_triple]

end Sys2Proof.Machine
end

section
/-! PROOFS. The block serves the event presented as the instruction it decodes to (spec/20_memory.md R41, R43). -/

namespace Sys2Proof.Machine

/-- An event that decodes to an instruction is served by running it. -/
theorem present_of_decode {s : State} {e : PortEvent} {i : Instr} (h : decode s.cfg s.variant e = .ok i) :
    present e s = exec i s := by
  cases e with
  | word w =>
    have hword : decodeWord w = .ok i := h
    rw [present, hword]
  | frame bytes =>
    have hframe : decodeFrame s.cfg s.variant bytes = .ok i := h
    rw [present, hframe]
  | reset strap => cases h

/-- Settles O6: taking the event off the port leaves what its decoding reads. -/
theorem stepRunsThePresentedInstruction : Obligations.StepRunsThePresentedInstruction := by
  unfold Obligations.StepRunsThePresentedInstruction
  intro s e rest i hport hdecode
  rw [step_cons hport]
  exact present_of_decode (s := s.setPort rest) hdecode

end Sys2Proof.Machine
end

section
/-! PROOFS. Operation words (spec/30_encoding.md R62 to R66): the 22 operations in one table, which fields each one uses, and
from it the match and mask rows, the encoder and the decoder. -/

namespace Sys2Proof

open Machine

section Fields

/-- R62: the word with the given fields. -/
def wordOf (f : OpFields) : OpWord :=
  ((((f.opsel ++ f.reserved) ++ f.s) ++ f.a) ++ f.d : BitVec (5 + 2 + 1 + 8 + 32))

theorem opWord_eq_wordOf (o : BitVec 5) (s : BitVec 1) (a : Byte) (d : Word) :
    opWord o s a d = wordOf { opsel := o, reserved := 0, s := s, a := a, d := d } := rfl

@[simp] theorem fieldsOf_wordOf (f : OpFields) : fieldsOf (wordOf f) = f := by
  obtain ⟨o, r, s, a, d⟩ := f
  unfold fieldsOf wordOf
  congr 1 <;> ext i hi <;> simp [BitVec.getElem_extractLsb'] <;> grind

/-- R62: the five fields are the whole word. -/
@[simp] theorem wordOf_fieldsOf (w : OpWord) : wordOf (fieldsOf w) = w := by
  unfold fieldsOf wordOf
  ext i hi
  simp
  grind

theorem fieldsOf_inj {w x : OpWord} : fieldsOf w = fieldsOf x ↔ w = x :=
  (Function.LeftInverse.injective wordOf_fieldsOf).eq_iff

theorem fieldsOf_and (w x : OpWord) :
    fieldsOf (w &&& x) =
      { opsel := (fieldsOf w).opsel &&& (fieldsOf x).opsel
        reserved := (fieldsOf w).reserved &&& (fieldsOf x).reserved
        s := (fieldsOf w).s &&& (fieldsOf x).s
        a := (fieldsOf w).a &&& (fieldsOf x).a
        d := (fieldsOf w).d &&& (fieldsOf x).d } := by
  simp [fieldsOf, BitVec.extractLsb'_and]

@[simp] theorem selBit_bufOf (s : BitVec 1) : selBit (bufOf s) = s := by
  revert s
  decide

end Fields

section Shapes

/-- One row of R63: the operation's name and `OPSEL`, which of the fields `S`, `A`, `D` it uses, and the instruction that
those fields make. -/
structure OpShape where
  mnemonic : String
  opsel : BitVec 5
  usesS : Bool
  usesA : Bool
  usesD : Bool
  make : Buf → Byte → Word → Instr

/-- The 22 operations of R63. -/
def opShapes : List OpShape :=
  [⟨"BCD.DEC", 0x01, false, true, true, fun _ a d => .bcdDec a d⟩,
   ⟨"BCD.DEC8", 0x02, false, true, false, fun _ a _ => .bcdDec8 a⟩,
   ⟨"CRC.CLR", 0x03, false, false, false, fun _ _ _ => .crcClr⟩,
   ⟨"CRC.UPD", 0x04, false, true, false, fun _ a _ => .crcUpd a⟩,
   ⟨"CRC.GET", 0x05, false, false, false, fun _ _ _ => .crcGet⟩,
   ⟨"CRC.FRAME", 0x06, true, false, false, fun b _ _ => .crcFrame b⟩,
   ⟨"LEN.RESOLVE", 0x07, false, true, false, fun _ a _ => .lenResolve a⟩,
   ⟨"FRM.HDR", 0x08, false, true, true, fun _ a d => .frmHdr a d⟩,
   ⟨"FRM.PAY", 0x09, false, true, false, fun _ a _ => .frmPay a⟩,
   ⟨"FRM.SEAL", 0x0A, false, false, false, fun _ _ _ => .frmSeal⟩,
   ⟨"DFR.CLR", 0x0B, false, false, false, fun _ _ _ => .dfrClr⟩,
   ⟨"DFR.PUSH", 0x0C, false, true, false, fun _ a _ => .dfrPush a⟩,
   ⟨"PKT.CHECK", 0x0D, true, false, false, fun b _ _ => .pktCheck b⟩,
   ⟨"BUF.RD", 0x0E, true, true, false, fun b a _ => .bufRd b a⟩,
   ⟨"GET.ADDR", 0x0F, true, false, false, fun b _ _ => .getAddr b⟩,
   ⟨"GET.CMD", 0x10, true, false, false, fun b _ _ => .getCmd b⟩,
   ⟨"GET.CRC", 0x11, true, false, false, fun b _ _ => .getCrc b⟩,
   ⟨"GET.B", 0x12, true, true, false, fun b a _ => .getB b a⟩,
   ⟨"GET.H", 0x13, true, true, false, fun b a _ => .getH b a⟩,
   ⟨"GET.T", 0x14, true, true, false, fun b a _ => .getT b a⟩,
   ⟨"GET.W", 0x15, true, true, false, fun b a _ => .getW b a⟩,
   ⟨"GET.DT", 0x16, true, true, false, fun b a _ => .getDt b a⟩]

variable {sh : OpShape}

/-- The fields of an operation's word: its `OPSEL`, and zero in every field it does not use (R64). -/
def OpShape.fields (sh : OpShape) (s : BitVec 1) (a : Byte) (d : Word) : OpFields where
  opsel := sh.opsel
  reserved := 0
  s := if sh.usesS then s else 0
  a := if sh.usesA then a else 0
  d := if sh.usesD then d else 0

/-- R63: the fields are those of a word of this operation. -/
def OpShape.Admits (sh : OpShape) (f : OpFields) : Prop := f = sh.fields f.s f.a f.d

/-- R63: the instruction a word of this operation stands for. -/
def OpShape.instr (sh : OpShape) (f : OpFields) : Instr := sh.make (bufOf f.s) f.a f.d

/-- R63: the row of the operation, whose mask is zero in the fields the operation uses. -/
def OpShape.row (sh : OpShape) : OpRow where
  mnemonic := sh.mnemonic
  pattern := wordOf (sh.fields 0 0 0)
  mask := wordOf
    { opsel := BitVec.allOnes 5
      reserved := BitVec.allOnes 2
      s := if sh.usesS then 0 else BitVec.allOnes 1
      a := if sh.usesA then 0 else BitVec.allOnes 8
      d := if sh.usesD then 0 else BitVec.allOnes 32 }

theorem opRows_eq_map_row : opRows = opShapes.map OpShape.row := by decide +kernel

/-- A mask is zero on a used field, and all ones on an unused one, which must then be zero. -/
theorem and_mask_eq_iff {n : Nat} (used : Bool) (x : BitVec n) :
    (x &&& (if used then 0 else BitVec.allOnes n) = if used then 0 else 0) ↔ x = if used then x else 0 := by
  cases used <;> simp

/-- A row selects exactly the words whose fields are those of its operation. -/
theorem OpShape.row_selects_iff {w : OpWord} : sh.row.selects w ↔ sh.Admits (fieldsOf w) := by
  rw [OpRow.selects, ← fieldsOf_inj, fieldsOf_and]
  generalize fieldsOf w = f
  obtain ⟨o, r, s, a, d⟩ := f
  simp only [row, fields, Admits, fieldsOf_wordOf, OpFields.mk.injEq, and_mask_eq_iff, BitVec.and_allOnes]

/-- The encoding of an operation is the word of its fields. -/
theorem encode_instr (hsh : sh ∈ opShapes) (cfg : Config) (v : Variant) (f : OpFields) :
    encode cfg v (sh.instr f) = .word (wordOf (sh.fields f.s f.a f.d)) := by
  revert sh
  simp [opShapes, OpShape.instr, OpShape.fields, encode, opWord_eq_wordOf]

theorem instr_wellFormed (hsh : sh ∈ opShapes) (f : OpFields) : (sh.instr f).wellFormed = true := by
  revert sh
  simp [opShapes, OpShape.instr, Instr.wellFormed]

theorem decodeIf_eq_ok {c : Bool} {i j : Instr} : decodeIf c i = .ok j ↔ c = true ∧ i = j := by
  cases c <;> simp [decodeIf]

/-- A word that decodes is one of an operation of R63: the operation in the place of the table that `OPSEL`, which counts
from one, gives. -/
theorem exists_shape_of_decodeWord {w : OpWord} {i : Instr} (h : decodeWord w = .ok i) :
    ∃ sh ∈ opShapes, sh.Admits (fieldsOf w) ∧ sh.instr (fieldsOf w) = i := by
  unfold decodeWord at h
  generalize fieldsOf w = f at h ⊢
  obtain ⟨o, r, s, a, d⟩ := f
  simp only at h
  split at h
  · cases h
  · rename_i hr
    rw [ne_eq, not_not] at hr
    split at h
    case h_23 => cases h
    all_goals
      rename_i hopsel
      obtain ⟨hunused, rfl⟩ := decodeIf_eq_ok.mp h
      have ho : o = BitVec.ofNat 5 o.toNat := by simp
      rw [hopsel] at ho
      refine ⟨opShapes[o.toNat - 1]'(by simp [hopsel, opShapes]), List.getElem_mem _, ?_⟩
      simpa [hopsel, opShapes, OpShape.Admits, OpShape.fields, OpShape.instr, hr, ho, and_assoc] using hunused

/-- R62, R64: the word of an operation decodes to it. -/
theorem decodeWord_of_encode {cfg : Config} {v : Variant} {i : Instr} {w : OpWord} (h : encode cfg v i = .word w) :
    decodeWord w = .ok i := by
  cases i with
  | frameReqReadTime _ | frameReqReadPower _ | frameReqReadCounters _ | frameReqReadBattery _ | frameReqReadTariffs _
  | frameReqReadTariff _ | frameReqReadUip _ | frameReqReadLineParams _
  | frameRepReadTime _ _ _ | frameRepReadPower _ _ _ | frameRepReadCounters _ _ _ | frameRepReadBattery _ _ _
  | frameRepReadTariffs _ _ _ | frameRepReadTariff _ _ _ | frameRepReadUip _ _ _ | frameRepReadLineParams _ _ _ => cases h
  | _ =>
    cases h
    simp [decodeWord, decodeIf]

/-- The same through the event that presents the word. -/
theorem decode_encode_of_word {cfg : Config} {v : Variant} {i : Instr} {w : OpWord} (h : encode cfg v i = .word w) :
    decode cfg v (encode cfg v i) = .ok i := by
  rw [h]
  exact decodeWord_of_encode h

/-- R64, R66: a word that decodes is the encoding of the instruction it decodes to. -/
theorem encode_of_decodeWord {w : OpWord} {i : Instr} (h : decodeWord w = .ok i) (cfg : Config) (v : Variant) :
    encode cfg v i = .word w ∧ i.wellFormed = true := by
  obtain ⟨sh, hsh, hadmits, rfl⟩ := exists_shape_of_decodeWord h
  rw [encode_instr hsh, ← hadmits, wordOf_fieldsOf]
  exact ⟨rfl, instr_wellFormed hsh _⟩

/-- A word whose fields are those of an operation decodes to it. -/
theorem decodeWord_of_admits {w : OpWord} (hsh : sh ∈ opShapes) (h : sh.Admits (fieldsOf w)) :
    decodeWord w = .ok (sh.instr (fieldsOf w)) := by
  apply decodeWord_of_encode (cfg := Config.standard) (v := .A)
  rw [encode_instr hsh, ← h, wordOf_fieldsOf]

end Shapes

/-- Settles O4: the words that a row selects are those whose fields its operation admits, and so are those that decode. -/
theorem wordDecodesIffARowSelectsIt : Obligations.WordDecodesIffARowSelectsIt := by
  unfold Obligations.WordDecodesIffARowSelectsIt
  intro w
  rw [opRows_eq_map_row]
  simp only [List.mem_map, exists_exists_and_eq_and, OpShape.row_selects_iff]
  constructor
  · rintro ⟨i, hdecode⟩
    obtain ⟨sh, hsh, hadmits, -⟩ := exists_shape_of_decodeWord hdecode
    exact ⟨sh, hsh, hadmits⟩
  · rintro ⟨sh, hsh, hadmits⟩
    exact ⟨_, decodeWord_of_admits hsh hadmits⟩

/-- Settles O5: a word that a row selects has the row's `OPSEL`, and no two rows share one. -/
theorem atMostOneRowSelects : Obligations.AtMostOneRowSelects := by
  unfold Obligations.AtMostOneRowSelects
  have hopsel : opShapes.Pairwise fun p q => p.opsel ≠ q.opsel := by decide
  rw [opRows_eq_map_row, List.pairwise_map]
  refine hopsel.imp fun hne w ⟨hp, hq⟩ => hne ?_
  rw [OpShape.row_selects_iff] at hp hq
  exact (congrArg OpFields.opsel hp).symm.trans (congrArg OpFields.opsel hq)

/-- Settles O1, by decoding the words. -/
theorem sampleWordsDecode : Obligations.SampleWordsDecode := by
  unfold Obligations.SampleWordsDecode
  decide +kernel

end Sys2Proof
end

section
/-! PROOFS. Wire frames (spec/30_encoding.md R50 to R59): a frame is its address, its command and what follows, and decoding
and encoding are inverse on all 38 instructions. -/

namespace Sys2Proof

open Machine

section Frames

variable {cfg : Config} {v : Variant}

theorem encode_request (cfg : Config) (v : Variant) (c : Command) (a : Word) :
    encode cfg v (.request c a) = .frame (requestBytes cfg v c a) := by
  cases c <;> rfl

theorem encode_reply (cfg : Config) (v : Variant) (c : Command) (a : Word) (p : List Byte) (t : Half) :
    encode cfg v (.reply c a p t) = .frame (replyBytes cfg c a p t) := by
  cases c <;> rfl

theorem request_wellFormed (c : Command) (a : Word) : (Instr.request c a).wellFormed = true := by
  cases c <;> rfl

theorem reply_wellFormed (c : Command) (a : Word) (p : List Byte) (t : Half) :
    (Instr.reply c a p t).wellFormed = payloadFits c p := by
  cases c <;> rfl

/-- Four bytes are the address bytes of the word they make (R55). -/
theorem wordBytes_be32 (a0 a1 a2 a3 : Byte) : wordBytes (be32 a0 a1 a2 a3) = [a0, a1, a2, a3] := by
  unfold wordBytes be32
  simp only [List.cons.injEq, and_true]
  refine ⟨?_, ?_, ?_, ?_⟩ <;> ext i hi <;> simp <;> grind

/-- A code that stands for a command is that command's (R111). -/
theorem code_of_commandOf {c : Byte} {k : Command} (h : commandOf cfg c = some k) : cfg.code k = c := by
  simpa using List.find?_some h

/-- R57: every reply carries a payload, so that no reply has the length of a request. -/
theorem replyPayload_pos (c : Command) : 0 < replyPayload c := by
  cases c <;> decide

/-- R50: a frame is read by its address, its command byte and what follows. -/
theorem decodeFrame_header (a : Word) (c : Byte) {rest : List Byte} (h : 2 ≤ rest.length) :
    decodeFrame cfg v (wordBytes a ++ c :: rest) =
      decodeFrameBody cfg v (a.extractLsb' 24 8) (a.extractLsb' 16 8) (a.extractLsb' 8 8) (a.extractLsb' 0 8) c rest := by
  match rest, h with
  | _ :: _ :: _, _ => rfl

/-- R52, R57: the bytes of a request decode to it. -/
theorem decodeFrame_requestBytes (h : cfg.codesDistinct) (v : Variant) (c : Command) (a : Word) :
    decodeFrame cfg v (requestBytes cfg v c a) = .ok (.request c a) := by
  rw [requestBytes, List.append_assoc, List.singleton_append, decodeFrame_header a _ (by simp), decodeFrameBody,
    commandOf_code h]
  simp [wordBytes]

/-- R53: the bytes of a reply of the right length decode to it. -/
theorem decodeFrame_replyBytes (h : cfg.codesDistinct) (v : Variant) (c : Command) (a : Word) {p : List Byte} (t : Half)
    (hp : payloadFits c p = true) : decodeFrame cfg v (replyBytes cfg c a p t) = .ok (.reply c a p t) := by
  rw [payloadFits, beq_iff_eq] at hp
  have hne : p ≠ [] := List.ne_nil_of_length_pos (hp ▸ replyPayload_pos c)
  rw [replyBytes, List.append_assoc, List.append_assoc, List.singleton_append, decodeFrame_header a _ (by simp),
    decodeFrameBody, commandOf_code h]
  simp [← hp, hne, halfBytes]

/-- A list is its front and its last two elements. -/
theorem take_append_lastTwo {bytes : List Byte} {n : Nat} (h : bytes.length = n + 2) :
    bytes.take n ++ [bytes.getD n 0, bytes.getD (n + 1) 0] = bytes := by
  have hlast : bytes.drop n = [bytes.getD n 0, bytes.getD (n + 1) 0] := by
    rw [List.drop_eq_getElem_cons (by omega), List.drop_eq_getElem_cons (by omega), List.drop_of_length_le (by omega),
      List.getD_eq_getElem _ _ (by omega), List.getD_eq_getElem _ _ (by omega)]
  rw [← hlast, List.take_append_drop]

/-- Whatever a header and the bytes after it decode to, it is the request or the reply whose bytes they are: the length
tells which, and the request's trailer was compared (R52, R53). -/
theorem encode_of_decodeFrameBody {a0 a1 a2 a3 c : Byte} {rest : List Byte} {i : Instr}
    (h : decodeFrameBody cfg v a0 a1 a2 a3 c rest = .ok i) :
    encode cfg v i = .frame ([a0, a1, a2, a3, c] ++ rest) ∧ i.wellFormed = true := by
  unfold decodeFrameBody at h
  split at h
  · cases h
  · rename_i cmd hcmd
    have hcode := code_of_commandOf hcmd
    split at h
    · split at h
      · rename_i htrailer
        cases h
        rw [encode_request, requestBytes, wordBytes_be32, hcode, htrailer]
        exact ⟨rfl, request_wellFormed _ _⟩
      · cases h
    · split at h
      · rename_i hlen
        cases h
        rw [encode_reply, replyBytes, wordBytes_be32, hcode, halfBytes_be16, List.append_assoc, take_append_lastTwo hlen,
          reply_wellFormed, payloadFits, List.length_take, hlen]
        simp
      · cases h

/-- A byte string that decodes is the encoding of the instruction it decodes to. -/
theorem encode_of_decodeFrame {bytes : List Byte} {i : Instr} (h : decodeFrame cfg v bytes = .ok i) :
    encode cfg v i = .frame bytes ∧ i.wellFormed = true := by
  unfold decodeFrame at h
  split at h
  · exact encode_of_decodeFrameBody h
  · cases h

end Frames

/-- Settles O2: words by their fields, frames by their header and length. -/
theorem encodedInstructionDecodes : Obligations.EncodedInstructionDecodes := by
  unfold Obligations.EncodedInstructionDecodes
  intro cfg v i hcodes hwf
  cases i with
  | frameReqReadTime _ | frameReqReadPower _ | frameReqReadCounters _ | frameReqReadBattery _ | frameReqReadTariffs _
  | frameReqReadTariff _ | frameReqReadUip _ | frameReqReadLineParams _ =>
    exact decodeFrame_requestBytes hcodes v _ _
  | frameRepReadTime _ _ _ | frameRepReadPower _ _ _ | frameRepReadCounters _ _ _ | frameRepReadBattery _ _ _
  | frameRepReadTariffs _ _ _ | frameRepReadTariff _ _ _ | frameRepReadUip _ _ _ | frameRepReadLineParams _ _ _ =>
    exact decodeFrame_replyBytes hcodes v _ _ _ hwf
  | _ => exact decode_encode_of_word rfl

/-- Settles O3, by the kind of the event: the reset event decodes to nothing. -/
theorem decodedEventIsTheOnlyEncoding : Obligations.DecodedEventIsTheOnlyEncoding := by
  unfold Obligations.DecodedEventIsTheOnlyEncoding
  intro cfg v e i h
  cases e with
  | word w => exact encode_of_decodeWord h cfg v
  | frame bytes => exact encode_of_decodeFrame h
  | reset strap => cases h

end Sys2Proof
end

section
/-! PROOFS. Sequences of operations (spec/30_encoding.md R41, R68): the streamed CRC of a byte list, and the wire frames as
the operations they stand for, each with the one run of bytes it stores. -/

namespace Sys2Proof.Machine

section Sequences

@[simp] theorem runOps_nil (s : State) : runOps [] s = .next s := rfl

@[simp] theorem runOps_cons (i : Instr) (is : List Instr) (s : State) :
    runOps (i :: is) s = andThen (exec i s) (runOps is) := rfl

@[simp] theorem andThen_pure {α : Type} (o : Host.Outcome α Fault Refusal) : andThen o .next = o := by
  cases o <;> rfl

theorem andThen_assoc {α β γ : Type} (o : Host.Outcome α Fault Refusal) (f : α → Host.Outcome β Fault Refusal)
    (g : β → Host.Outcome γ Fault Refusal) : andThen (andThen o f) g = andThen o fun x => andThen (f x) g := by
  cases o <;> rfl

/-- R41: a sequence followed by another is the second run from where the first ends. -/
theorem runOps_append (is js : List Instr) (s : State) :
    runOps (is ++ js) s = andThen (runOps is s) (runOps js) := by
  induction is generalizing s with
  | nil => rfl
  | cons i is ih =>
    rw [List.cons_append, runOps_cons, runOps_cons, andThen_assoc]
    exact congrArg (andThen (exec i s)) (funext ih)

/-- R94, R96: `CRC.UPD` of each byte carries the remainder from `x` over the bytes. -/
theorem runOps_map_crcUpd (bytes : List Byte) (x : Half) (s : State) :
    runOps (bytes.map .crcUpd) ((s.setAcc x).setErr .none) =
      .next ((s.setAcc (crcRaw s.cfg s.variant x bytes)).setErr .none) := by
  induction bytes generalizing x with
  | nil => rfl
  | cons b bs ih => exact ih (crcStep s.cfg s.variant x b)

/-- R68, R69: `CRC16` leaves the raw remainder in `ACC` and `crc16` in `R`. -/
theorem runPseudo_crc16 (bytes : List Byte) (s : State) :
    runPseudo (.crc16 bytes) s =
      .next (((s.setAcc (crcRaw s.cfg s.variant (crcInit s.cfg s.variant) bytes)).setR
        ((crc16 s.cfg s.variant bytes).setWidth 32)).setErr .none) := by
  have hclr : exec .crcClr s = .next ((s.setAcc (crcInit s.cfg s.variant)).setErr .none) := rfl
  rw [runPseudo, runOps_cons, hclr, andThen_next, runOps_append, runOps_map_crcUpd]
  rfl

end Sequences

/-- Settles O33: the remainder that `CRC.GET` reads is the one the bytes leave. -/
theorem streamedCrcIsCrcOfTheBytes : Obligations.StreamedCrcIsCrcOfTheBytes := by
  unfold Obligations.StreamedCrcIsCrcOfTheBytes
  intro bytes s
  exact ⟨_, runPseudo_crc16 bytes s, rfl, BitVec.toNat_setWidth_of_le (by decide), rfl⟩

section Frames

theorem exec_request (c : Command) (a : Word) (s : State) : exec (.request c a) s = buildRequest c a s := by
  cases c <;> rfl

theorem exec_reply (c : Command) (a : Word) (p : List Byte) (x : Half) (s : State) :
    exec (.reply c a p x) s = receiveReply c a p x s := by
  cases c <;> rfl

/-- R125, R219: `DFR.PUSH` of each byte is what collects a reply. -/
theorem runOps_map_dfrPush (xs : List Byte) (s : State) : runOps (xs.map .dfrPush) s = pushAll xs s := by
  induction xs generalizing s with
  | nil => rfl
  | cons x xs ih => exact congrArg (andThen (pushReply x s)) (funext ih)

theorem Memory.writeList_append (m : Memory) (a : Nat) (bs cs : List Byte) :
    m.writeList a (bs ++ cs) = (m.writeList a bs).writeList (a + bs.length) cs := by
  induction bs generalizing m a with
  | nil => rfl
  | cons b bs ih =>
    rw [List.length_cons, show a + (bs.length + 1) = a + 1 + bs.length by omega]
    exact ih (m.write a b) (a + 1)

/-- Two runs of bytes, the second where the first ended the packet, are one run. -/
theorem Packet.splice_splice (p : Packet) (a : Nat) (bs cs : List Byte) :
    (p.splice a bs).splice (a + bs.length) cs = p.splice a (bs ++ cs) := by
  unfold splice
  rw [Memory.writeList_append, List.length_append, Nat.add_assoc]

/-- Every byte of either buffer after a packet is stored from its first byte on. -/
theorem readByte_splice_zero (s : State) (b b' : Buf) (bs : List Byte) (j : Nat) :
    readByte (s.setBuf b ((s.buf b).splice 0 bs)) b' j =
      if b' = b ∧ j < bs.length then bs.getD j 0 else readByte s b' j :=
  (readByte_store s b b' 0 bs _ false j).trans (by simp)

/-- A packet stored from its first byte on reads back as stored. -/
theorem readBytes_splice_zero (s : State) (b : Buf) (bs : List Byte) :
    readBytes (s.setBuf b ((s.buf b).splice 0 bs)) b 0 bs.length = bs := by
  refine List.ext_getElem (readBytes_length ..) fun j hj hjbs => ?_
  simp [readBytes, readByte_splice_zero, hjbs]

/-- Above a packet stored from its first byte on, its buffer is as before. -/
theorem readByte_splice_zero_above (s : State) (b : Buf) {bs : List Byte} {j : Nat} (h : bs.length ≤ j) :
    readByte (s.setBuf b ((s.buf b).splice 0 bs)) b j = readByte s b j := by
  rw [readByte_splice_zero, if_neg fun hin => Nat.not_lt.mpr h hin.2]

/-- The bytes stand in `TXB` as an open packet (R121, R122). -/
def State.opened (s : State) (bs : List Byte) : State :=
  ((s.setBuf .tx (s.tx.splice 0 bs)).setSealed false).setErr .none

/-- The bytes stand in `TXB` as a sealed packet (R123). -/
def State.sealed (s : State) (bs : List Byte) : State :=
  ((s.setBuf .tx (s.tx.splice 0 bs)).setSealed true).setErr .none

/-- The bytes stand in `RXB` as the reply collected so far (R124, R125). -/
def State.received (s : State) (bs : List Byte) : State := (s.setBuf .rx (s.rx.splice 0 bs)).setErr .none

variable (s : State) {bs : List Byte}

theorem opened_len (hfit : bs.length ≤ frameMax) : (s.opened bs).len .tx = bs.length :=
  (Packet.splice_len (by omega)).trans (Nat.zero_add _)

theorem received_len (hfit : bs.length ≤ frameMax) : (s.received bs).len .rx = bs.length :=
  (Packet.splice_len (by omega)).trans (Nat.zero_add _)

theorem startPacket_eq_opened (c : Byte) (a : Word) : startPacket c a s = .next (s.opened (wordBytes a ++ [c])) :=
  startPacket_eq ..

/-- R123: sealing puts the trailer of the packet's bytes behind them. -/
theorem sealPacket_opened (hne : bs ≠ []) (hfit : bs.length + 2 ≤ frameMax) :
    sealPacket (s.opened bs) = .next (s.sealed (bs ++ halfBytes (s.crcOf bs))) := by
  have hlen : (s.opened bs).len .tx = bs.length := opened_len s (by omega)
  have hopen : noOpenPacket (s.opened bs) = false := by
    rw [noOpenPacket, hlen]
    simp [State.opened, hne]
  have hread : readBytes (s.opened bs) .tx 0 bs.length = bs := readBytes_splice_zero s .tx bs
  rw [sealPacket_eq, hopen, hlen, if_neg (by decide), if_pos hfit, State.withTrailer, hlen, hread, State.sealed,
    ← Packet.splice_splice, Nat.zero_add]
  rfl

/-- R52, R121, R123: `REQUEST` leaves the seven bytes of the request, sealed. -/
theorem buildRequest_eq (c : Command) (a : Word) :
    buildRequest c a s = .next (s.sealed (requestBytes s.cfg s.variant c a)) := by
  rw [buildRequest, startPacket_eq_opened, andThen_next]
  exact sealPacket_opened s (by simp) (by simp [frameMax])

theorem clearReply_eq_received : clearReply s = .next (s.received []) := rfl

/-- R125: a byte that fits goes behind the bytes collected so far. -/
theorem pushReply_received (x : Byte) (hroom : bs.length < frameMax) :
    pushReply x (s.received bs) = .next (s.received (bs ++ [x])) := by
  rw [pushReply_eq, received_len s hroom.le, if_neg hroom.ne, State.received, State.received, ← Packet.splice_splice,
    Nat.zero_add]
  rfl

/-- R125: bytes that fit go behind the bytes collected so far, in the order pushed. -/
theorem pushAll_received {xs : List Byte} (hfit : (bs ++ xs).length ≤ frameMax) :
    pushAll xs (s.received bs) = .next (s.received (bs ++ xs)) := by
  induction xs generalizing bs with
  | nil => rw [List.append_nil]; rfl
  | cons x xs ih =>
    have hroom : bs.length < frameMax := by
      rw [List.length_append, List.length_cons] at hfit
      omega
    rw [List.append_cons] at hfit ⊢
    rw [pushAll, pushReply_received s x hroom, andThen_next, ih hfit]

/-- R51: a reply of at most 16 payload bytes fits its buffer. -/
theorem replyBytes_length_le (cfg : Config) (c : Command) (a : Word) {p : List Byte} (x : Half) (h : p.length ≤ 16) :
    (replyBytes cfg c a p x).length ≤ frameMax := by
  rw [Laws.replyBytes_length]
  exact Nat.add_le_add_right h 7

/-- R53, R125: `RECV` leaves the bytes of a reply that fits as they arrive. -/
theorem receiveReply_eq (c : Command) (a : Word) {p : List Byte} (x : Half) (h : p.length ≤ 16) :
    receiveReply c a p x s = .next (s.received (replyBytes s.cfg c a p x)) := by
  rw [receiveReply, receiveBytes, clearReply_eq_received, andThen_next]
  exact pushAll_received s (replyBytes_length_le s.cfg c a x h)

/-- R110: no payload is longer than the longest, that of `READ_COUNTERS`. -/
theorem replyPayload_le (c : Command) : replyPayload c ≤ 16 := by
  cases c <;> decide

end Frames

section Fields

/-! What a buffer that holds the bytes of a frame (R50 to R53) gives when it is read byte by byte. -/

variable {t : State} {b : Buf} {cfg : Config} {c : Command} {a : Word} {p : List Byte} {x : Half}
  (hframe : readBytes t b 0 (p.length + 7) = replyBytes cfg c a p x)
include hframe

theorem readByte_of_frame {j : Nat} (hj : j < p.length + 7) : readByte t b j = (replyBytes cfg c a p x).getD j 0 := by
  simp [← hframe, readBytes, hj]

theorem address_of_frame :
    2 ^ 24 * (readByte t b 0).toNat + 2 ^ 16 * (readByte t b 1).toNat + 2 ^ 8 * (readByte t b 2).toNat +
      (readByte t b 3).toNat = a.toNat := by
  rw [← be32_toNat]
  simp (disch := omega) only [readByte_of_frame hframe]
  exact congrArg BitVec.toNat (be32_wordBytes a)

theorem command_of_frame : readByte t b 4 = cfg.code c := readByte_of_frame hframe (by omega)

theorem payload_of_frame {j : Nat} (hj : j < p.length) : p[j]? = some (readByte t b (5 + j)) := by
  rw [readByte_of_frame hframe (by omega)]
  simp [replyBytes, wordBytes, Nat.add_comm 5 j, List.getElem?_append_left hj, hj]

theorem header_of_frame : (List.range 5).map (readByte t b) = wordBytes a ++ [cfg.code c] := by
  have htake : (List.range 5).map (readByte t b) = (readBytes t b 0 (p.length + 7)).take 5 := by
    simp [readBytes, ← List.map_take, List.take_range]
  rw [htake, hframe]
  rfl

theorem trailer_of_frame :
    256 * (readByte t b (p.length + 5)).toNat + (readByte t b (p.length + 6)).toNat = x.toNat := by
  rw [← be16_toNat]
  simp (disch := omega) only [readByte_of_frame hframe]
  simp [replyBytes, wordBytes, halfBytes]

end Fields

/-- Settles O54: a request frame is `REQUEST`, a reply frame is `RECV`, by their definitions. -/
theorem wireFramesAreTheirOperations : Obligations.WireFramesAreTheirOperations := by
  unfold Obligations.WireFramesAreTheirOperations
  intro c a p k s
  constructor
  · rw [exec_request, buildRequest, runOps_cons]
    exact congrArg (andThen _) (funext fun t => (andThen_pure (sealPacket t)).symm)
  · rw [exec_reply, runOps_cons, receiveReply, receiveBytes]
    exact congrArg (andThen _) (funext fun t => (runOps_map_dfrPush _ t).symm)

/-- Settles O52: `REQUEST` leaves the bytes of the request, a frame without payload, and each field is read from them. -/
theorem requestFrameResult : Obligations.RequestFrameResult := by
  unfold Obligations.RequestFrameResult
  intro a s q hq
  obtain ⟨c, -, rfl⟩ : ∃ c ∈ Command.all, (Instr.request c a, s.cfg.code c) = q := List.mem_map.mp hq
  have hframe : readBytes (s.sealed (requestBytes s.cfg s.variant c a)) .tx 0 (([] : List Byte).length + 7) =
      replyBytes s.cfg c a [] (s.crcOf (wordBytes a ++ [s.cfg.code c])) := readBytes_splice_zero s .tx _
  rw [exec_request, buildRequest_eq]
  refine ⟨_, rfl, rfl, rfl, rfl, address_of_frame hframe, command_of_frame hframe, ?_, fun j hj => ?_, fun j => rfl⟩
  · rw [header_of_frame hframe]
    exact trailer_of_frame hframe
  · exact readByte_splice_zero_above s .tx hj

/-- Settles O53: `RECV` leaves the bytes of the frame, and each field is read from them. -/
theorem replyFrameResult : Obligations.ReplyFrameResult := by
  unfold Obligations.ReplyFrameResult
  intro a p k s q hq
  obtain ⟨c, -, rfl⟩ : ∃ c ∈ Command.all, (Instr.reply c a p k, s.cfg.code c, replyPayload c) = q :=
    List.mem_map.mp hq
  intro (hpayload : p.length = replyPayload c)
  simp only [← hpayload]
  have hfit : p.length ≤ 16 := hpayload ▸ replyPayload_le c
  have hlen := Laws.replyBytes_length s.cfg c a p k
  have hframe : readBytes (s.received (replyBytes s.cfg c a p k)) .rx 0 (p.length + 7) = replyBytes s.cfg c a p k :=
    hlen ▸ readBytes_splice_zero s .rx (replyBytes s.cfg c a p k)
  rw [exec_reply, receiveReply_eq s c a k hfit]
  refine ⟨_, rfl, rfl, ?_, rfl, address_of_frame hframe, command_of_frame hframe, fun j hj => payload_of_frame hframe hj,
    trailer_of_frame hframe, fun j hj => ?_, fun j => rfl⟩
  · rw [received_len s (replyBytes_length_le s.cfg c a k hfit), hlen]
  · exact readByte_splice_zero_above s .rx (hlen.trans_le hj)

end Sys2Proof.Machine
end

section
/-! PROOFS. The BCD decoder (spec/40_bcd.md R80 to R85): its digits as arithmetic, its bounds, and what its two operations
write. -/

namespace Sys2Proof.Machine

section Digits

variable {v : Word} {n : Nat}

/-- R80: a digit as a nibble of the number. -/
theorem digit_toNat (v : Word) (i : Nat) : (digit v i).toNat = v.toNat / 16 ^ i % 16 := by
  rw [digit, BitVec.extractLsb'_toNat, Nat.shiftRight_eq_div_pow, Nat.pow_mul]

theorem bcd_eq_sum (v : Word) (n : Nat) : bcd v n = ∑ i ∈ Finset.range n, v.toNat / 16 ^ i % 16 * 10 ^ i := by
  induction n with
  | zero => rfl
  | succ n ih => rw [bcd, ih, Finset.sum_range_succ, digit_toNat]

theorem bad_iff (v : Word) (n : Nat) : bad v n = true ↔ ∃ i < n, 9 < v.toNat / 16 ^ i % 16 := by
  simp [bad, digit_toNat]

/-- Digits of at most `d` give at most `d` times the repunit `(10 ^ n - 1) / 9`. -/
theorem bcd_le_of_digits_le {d : Nat} (h : ∀ i < n, (digit v i).toNat ≤ d) : 9 * bcd v n ≤ d * (10 ^ n - 1) := by
  suffices hsum : 9 * bcd v n + d ≤ d * 10 ^ n by
    rw [Nat.mul_sub_one]
    omega
  induction n with
  | zero => simp [bcd]
  | succ n ih =>
    have hrest := ih fun i hi => h i (by omega)
    have htop := Nat.mul_le_mul_right (10 ^ n) (h n (by omega))
    rw [bcd, pow_succ]
    linarith

/-- R84: the bound with good digits. -/
theorem bcd_le_of_good (hgood : bad v n = false) : bcd v n ≤ 10 ^ n - 1 := by
  have hdigits : ∀ i < n, (digit v i).toNat ≤ 9 := by simpa [bad] using hgood
  exact Nat.le_of_mul_le_mul_left (bcd_le_of_digits_le hdigits) (by decide)

/-- R84: the bound with any digits. -/
theorem bcd_le (v : Word) (n : Nat) : bcd v n ≤ 15 * (10 ^ n - 1) / 9 := by
  have hdigits : ∀ i < n, (digit v i).toNat ≤ 15 := fun i _ => Nat.le_of_lt_succ (digit v i).isLt
  rw [Nat.le_div_iff_mul_le (by decide), Nat.mul_comm]
  exact bcd_le_of_digits_le hdigits

/-- R84: the value of up to eight digits fits `R`. -/
theorem bcd_lt (v : Word) (hn : n ≤ 8) : bcd v n < 2 ^ 28 := by
  have hvalue := bcd_le v n
  have hpow : 10 ^ n ≤ 10 ^ 8 := Nat.pow_le_pow_right (by decide) hn
  omega

end Digits

section Bytes

variable (x : Byte)

theorem digit_zero_of_byte : digit (x.setWidth 32) 0 = x.extractLsb' 0 4 :=
  BitVec.extractLsb'_setWidth_of_le (by decide)

theorem digit_one_of_byte : digit (x.setWidth 32) 1 = x.extractLsb' 4 4 :=
  BitVec.extractLsb'_setWidth_of_le (by decide)

/-- R85: the value of the two digits of a byte. -/
theorem bcd_two_of_byte : bcd (x.setWidth 32) 2 = dec8 x := by
  simp only [bcd, dec8, digit_zero_of_byte, digit_one_of_byte]
  omega

/-- R85: the two digits of a byte that are looked at. -/
theorem bad_two_of_byte : bad (x.setWidth 32) 2 = bad8 x := by
  simp [bad, bad8, List.range_succ, digit_zero_of_byte, digit_one_of_byte, Bool.or_comm]

end Bytes

section Operations

variable {n : Byte}

/-- A flagged outcome (R184) reports its code exactly when its condition holds. -/
theorem flagged_eq_iff {c : Bool} {e : ErrCode} (he : e ≠ .none) : (if c then e else .none) = e ↔ c = true := by
  cases c <;> simp [he.symm]

/-- R81: `BCD.DEC` of a count up to eight. -/
theorem exec_bcdDec_of_le (hn : n.toNat ≤ 8) (v : Word) (s : State) :
    exec (.bcdDec n v) s =
      .next ((s.setR (BitVec.ofNat 32 (bcd v n.toNat))).setErr (if bad v n.toNat then .bcdDigit else .none)) :=
  if_neg (Nat.not_lt.mpr hn)

/-- R193: `BCD.DEC` of a count above eight. -/
theorem exec_bcdDec_of_gt (hn : 8 < n.toNat) (v : Word) (s : State) :
    exec (.bcdDec n v) s = .next (s.setErr .bcdWidth) :=
  if_pos hn

/-- R82: `BCD.DEC8` of any byte. -/
theorem exec_bcdDec8 (x : Byte) (s : State) :
    exec (.bcdDec8 x) s =
      .next ((s.setR (BitVec.ofNat 32 (dec8 x))).setErr (if bad8 x then .bcdDigit else .none)) := rfl

/-- R85: the one-byte decoder is the decoder of two digits. -/
theorem exec_bcdDec8_eq_bcdDec_two (x : Byte) (s : State) :
    exec (.bcdDec8 x) s = exec (.bcdDec 2 (x.setWidth 32)) s := by
  rw [exec_bcdDec_of_le (by decide), exec_bcdDec8, ← bcd_two_of_byte, ← bad_two_of_byte]
  rfl

end Operations

/-- Settles O26: a bound on every digit bounds the sum, with 9 for good digits and 15 for any. -/
theorem bcdValueIsBounded : Obligations.BcdValueIsBounded := by
  unfold Obligations.BcdValueIsBounded
  exact fun n v hn => ⟨bcd_le_of_good, bcd_le v n, bcd_lt v hn⟩

/-- Settles O22: the digits are the nibbles of the value, and the sum does not wrap in `R`. -/
theorem bcdDecResult : Obligations.BcdDecResult := by
  unfold Obligations.BcdDecResult
  refine ⟨rfl, fun n v s hn => ⟨_, exec_bcdDec_of_le hn v s, changesOnlyR_returned .., ?_, ?_, ?_⟩⟩
  · have hfits : bcd v n.toNat < 2 ^ 32 := (bcd_lt v hn).trans (by decide)
    rw [State.setErr_r, State.setR_r, BitVec.toNat_ofNat, Nat.mod_eq_of_lt hfits, bcd_eq_sum]
  · exact (ite_eq_or_eq ..).symm
  · exact (flagged_eq_iff (by decide)).trans (bad_iff v n.toNat)

/-- Settles O24: the result of two digits, read for the number a byte is. -/
theorem bcdDecEightResult : Obligations.BcdDecEightResult := by
  unfold Obligations.BcdDecEightResult
  intro x s
  obtain ⟨t, hexec, honly, hvalue, hcode, hflag⟩ := bcdDecResult.2 2 (x.setWidth 32) s (by decide)
  have hx : x.toNat < 256 := x.isLt
  have hzext : (x.setWidth 32).toNat = x.toNat := BitVec.toNat_setWidth_of_le (by decide)
  have htwo : (2 : Byte).toNat = 2 := rfl
  rw [hzext, htwo] at hvalue hflag
  refine ⟨t, exec_bcdDec8_eq_bcdDec_two x s ▸ hexec, honly, ?_, hcode, hflag.trans ?_⟩
  · rw [hvalue, Finset.sum_range_succ, Finset.sum_range_one]
    omega
  · rw [Nat.exists_lt_succ_right, Nat.exists_lt_succ_right]
    simp only [Nat.not_lt_zero, false_and, exists_false, false_or, pow_zero, Nat.div_one, pow_one]
    omega

/-- Settles O25: in each case what is written is named without the state. -/
theorem byteDecoderAgreesWithTwoDigits : Obligations.ByteDecoderAgreesWithTwoDigits := by
  unfold Obligations.ByteDecoderAgreesWithTwoDigits
  refine ⟨exec_bcdDec8_eq_bcdDec_two, fun x => ⟨_, _, exec_bcdDec8 x⟩, fun n v => ?_⟩
  by_cases hn : n.toNat ≤ 8
  · exact ⟨some _, _, exec_bcdDec_of_le hn v⟩
  · exact ⟨none, _, exec_bcdDec_of_gt (by omega) v⟩

end Sys2Proof.Machine
end

section
/-! PROOFS. The CRC engine (spec/41_crc.md R90 to R101). Variant A is variant B with every value reversed, so what is
proved of the step of variant B holds of the step of variant A; then what the four operations write. -/

namespace Sys2Proof.Machine

section Shifts

variable (p : Half)

theorem times_eq_iterate (n : Nat) (f : Half → Half) : times n f = f^[n] := by
  induction n with
  | zero => rfl
  | succ n ih => exact funext fun x => congrFun ih (f x)

/-- The repeated function is also applied last. -/
theorem times_succ (n : Nat) (f : Half → Half) (x : Half) : times (n + 1) f x = f (times n f x) := by
  rw [times_eq_iterate, times_eq_iterate, Function.iterate_succ_apply']

/-- R91: the two cases of a shift, by the bit that leaves at the low end. -/
theorem shiftA_cases (x : Half) :
    x.toNat % 2 = 1 ∧ shiftA p x = (x >>> 1) ^^^ p ∨ x.toNat % 2 = 0 ∧ shiftA p x = x >>> 1 := by
  have hbit : x.getLsbD 0 = decide (x.toNat % 2 = 1) := Nat.testBit_zero x.toNat
  unfold shiftA
  simp only [hbit, decide_eq_true_eq]
  split
  · next hone => exact .inl ⟨hone, rfl⟩
  · next hone => exact .inr ⟨Nat.mod_two_ne_one.mp hone, rfl⟩

/-- R92: the two cases of a shift, by the bit that leaves at the high end. -/
theorem shiftB_cases (x : Half) :
    2 ^ 15 ≤ x.toNat ∧ shiftB p x = (x <<< 1) ^^^ p ∨ x.toNat < 2 ^ 15 ∧ shiftB p x = x <<< 1 := by
  have hbit : x.getLsbD 15 = decide (2 ^ 15 ≤ x.toNat) := BitVec.msb_eq_decide x
  unfold shiftB
  simp only [hbit, decide_eq_true_eq]
  split
  · next hone => exact .inl ⟨hone, rfl⟩
  · next hone => exact .inr ⟨Nat.lt_of_not_le hone, rfl⟩

/-- A shift XORs the bit that leaves, times the polynomial, into the moved bits. -/
theorem shiftB_eq_xor (x : Half) : shiftB p x = (x <<< 1) ^^^ (if x.getLsbD 15 then p else 0) := by
  unfold shiftB
  split
  · rfl
  · exact BitVec.xor_zero.symm

/-- R100: a shift is linear over XOR. -/
theorem shiftB_xor (x y : Half) : shiftB p (x ^^^ y) = shiftB p x ^^^ shiftB p y := by
  have hcarry : (if (x ^^^ y).getLsbD 15 then p else 0) =
      (if x.getLsbD 15 then p else 0) ^^^ (if y.getLsbD 15 then p else 0) := by
    rw [BitVec.getLsbD_xor]
    cases x.getLsbD 15 <;> cases y.getLsbD 15 <;> simp
  rw [shiftB_eq_xor, shiftB_eq_xor, shiftB_eq_xor, hcarry, BitVec.shiftLeft_xor_distrib]
  ac_rfl

/-- With the low bit of the polynomial set, the bit that left is the low bit after the shift. -/
theorem shiftB_getLsbD_zero (hp : p.getLsbD 0 = true) (x : Half) : (shiftB p x).getLsbD 0 = x.getLsbD 15 := by
  rw [shiftB_eq_xor, BitVec.getLsbD_xor]
  cases x.getLsbD 15 <;> simp [hp]

/-- R100: with the low bit of the polynomial set, a shift loses nothing. -/
theorem shiftB_injective (hp : p.getLsbD 0 = true) : Function.Injective (shiftB p) := by
  intro x y h
  have htop : x.getLsbD 15 = y.getLsbD 15 := by
    rw [← shiftB_getLsbD_zero p hp, h, shiftB_getLsbD_zero p hp]
  rw [shiftB_eq_xor, shiftB_eq_xor, htop, BitVec.xor_left_inj] at h
  ext i hi
  rcases Nat.lt_or_eq_of_le (Nat.le_of_lt_succ hi) with hlow | rfl
  · have hmoved := congrArg (BitVec.getLsbD · (i + 1)) h
    simpa [BitVec.getLsbD_shiftLeft, Nat.succ_lt_succ hlow, hi] using hmoved
  · exact htop

theorem reverse_xor {w : Nat} (x y : BitVec w) : (x ^^^ y).reverse = x.reverse ^^^ y.reverse := by
  ext i hi
  simp [BitVec.getElem_reverse]

/-- R90: reversed, a shift of variant B is a shift of variant A. -/
theorem shiftA_reverse (x : Half) : shiftA p.reverse x.reverse = (shiftB p x).reverse := by
  have hlow : x.reverse.getLsbD 0 = x.getLsbD 15 := BitVec.getLsbD_reverse
  have hmoved : x.reverse >>> 1 = (x <<< 1).reverse := by
    ext i hi
    simp [BitVec.getElem_reverse, BitVec.getLsbD_reverse, Nat.add_comm]
  unfold shiftA shiftB
  rw [hlow, hmoved]
  split
  · exact (reverse_xor ..).symm
  · rfl

/-- R91, R92: reversed, the byte enters at the other end. -/
theorem entered_reverse (x : Byte) : (x.setWidth 16 <<< 8 : Half).reverse = x.reverse.setWidth 16 := by
  ext i hi
  simp [BitVec.getElem_reverse, BitVec.getLsbD_reverse]

/-- R90: reversed, the step of variant B is the step of variant A. -/
theorem updA_reverse (a : Half) (x : Byte) : updA p.reverse a.reverse x.reverse = (updB p a x).reverse := by
  have hshifts : Function.Semiconj BitVec.reverse (shiftB p) (shiftA p.reverse) := fun y => (shiftA_reverse p y).symm
  rw [updA, updB, ← entered_reverse, ← reverse_xor, times_eq_iterate, times_eq_iterate]
  exact ((hshifts.iterate_right 8).eq _).symm

/-- R90: the step of variant A, by the step of variant B. -/
theorem updA_eq_updB (a : Half) (x : Byte) : updA p a x = (updB p.reverse a.reverse x.reverse).reverse := by
  rw [← updA_reverse]
  simp only [BitVec.reverse_reverse_eq]

end Shifts

section Steps

variable {p : Half}

/-- R100: the step of variant B is linear over XOR in the remainder and the byte. -/
theorem updB_xor (a a' : Half) (x x' : Byte) :
    updB p (a ^^^ a') (x ^^^ x') = updB p a x ^^^ updB p a' x' := by
  have hentered : (a ^^^ a') ^^^ ((x ^^^ x').setWidth 16 <<< 8) =
      (a ^^^ (x.setWidth 16 <<< 8)) ^^^ (a' ^^^ (x'.setWidth 16 <<< 8)) := by
    rw [BitVec.setWidth_xor, BitVec.shiftLeft_xor_distrib]
    ac_rfl
  have hshifts : Function.Semiconj₂ (shiftB p) (· ^^^ ·) (· ^^^ ·) := shiftB_xor p
  rw [updB, updB, updB, hentered, times_eq_iterate]
  exact (hshifts.iterate 8).eq _ _

/-- R100: variant A's step is linear, as the mirror image of variant B's. -/
theorem updA_xor (a a' : Half) (x x' : Byte) :
    updA p (a ^^^ a') (x ^^^ x') = updA p a x ^^^ updA p a' x' := by
  simp only [updA_eq_updB, reverse_xor, updB_xor]

/-- R100: with the low bit of the polynomial set, the step of variant B loses nothing of the remainder. -/
theorem updB_injective (hp : p.getLsbD 0 = true) (x : Byte) : Function.Injective fun a => updB p a x := by
  intro a a' h
  have hshifts : Function.Injective (times 8 (shiftB p)) := times_eq_iterate 8 _ ▸ (shiftB_injective p hp).iterate 8
  exact (BitVec.xor_left_inj _).mp (hshifts h)

/-- R100: the high bit of the polynomial is, reversed, the low bit that variant B asks for. -/
theorem updA_injective (hp : p.getLsbD 15 = true) (x : Byte) : Function.Injective fun a => updA p a x := by
  have hreverse : Function.Injective (BitVec.reverse : Half → Half) :=
    Function.LeftInverse.injective fun _ => BitVec.reverse_reverse_eq
  have hp' : p.reverse.getLsbD 0 = true := BitVec.getLsbD_reverse.trans hp
  simp only [updA_eq_updB]
  exact hreverse.comp ((updB_injective hp' x.reverse).comp hreverse)

end Steps

/-- R93: the bytes exchanged, as a number. -/
theorem swap16_toNat (v : Half) : (swap16 v).toNat = v.toNat % 256 * 256 + v.toNat / 256 := by
  have hv : v.toNat < 65536 := v.isLt
  have hbytes : (swap16 v).toNat = 256 * (v.extractLsb' 0 8).toNat + (v.extractLsb' 8 8).toNat := be16_toNat ..
  rw [hbytes, BitVec.extractLsb'_toNat, BitVec.extractLsb'_toNat, Nat.shiftRight_eq_div_pow]
  omega

/-- R96: `CRC.UPD` of any byte. -/
theorem exec_crcUpd (x : Byte) (s : State) :
    exec (.crcUpd x) s = .next { s with acc := crcStep s.cfg s.variant s.acc x, err := .none } := rfl

/-- R98: `CRC.FRAME` of a readable packet. -/
theorem exec_crcFrame_of_readable {b : Buf} {s : State} (h : Readable s b) :
    exec (.crcFrame b) s = .next ((s.setR ((recomputedTrailer s b).setWidth 32)).setErr .none) := by
  rw [exec, execCrcFrame, checkPacket_eq_none.mpr h]
  rfl

/-- R99: the bytes that the recomputed trailer covers. -/
theorem recomputedTrailer_eq (s : State) (b : Buf) :
    recomputedTrailer s b = crc16 s.cfg s.variant ((List.range (s.len b - 2)).map (readByte s b)) := by
  simp [recomputedTrailer, State.crcOf, readBytes]

/-- Settles O28: the sequence is the register after each shift. -/
theorem crcUpdResult : Obligations.CrcUpdResult := by
  unfold Obligations.CrcUpdResult
  intro x s
  rw [exec_crcUpd]
  cases s.variant with
  | A =>
    refine ⟨fun k => times k (shiftA s.cfg.polyA) (s.acc ^^^ x.setWidth 16), rfl,
      fun _ => ⟨rfl, fun k _ => ?_⟩, nofun⟩
    simp only [times_succ]
    exact shiftA_cases ..
  | B =>
    refine ⟨fun k => times k (shiftB s.cfg.polyB) (s.acc ^^^ (x.setWidth 16 <<< 8)), rfl, nofun,
      fun _ => ⟨rfl, fun k _ => ?_⟩⟩
    simp only [times_succ]
    exact shiftB_cases ..

/-- Settles O29: each variant's step is linear. -/
theorem crcStepIsLinear : Obligations.CrcStepIsLinear := by
  unfold Obligations.CrcStepIsLinear
  intro cfg v
  cases v with
  | A => exact updA_xor
  | B => exact updB_xor

/-- Settles O30: on the finitely many remainders a step that loses nothing is a bijection. -/
theorem crcStepIsInvertible : Obligations.CrcStepIsInvertible := by
  unfold Obligations.CrcStepIsInvertible
  intro cfg v x hA hB
  refine Finite.injective_iff_bijective.mp ?_
  cases v with
  | A => exact updA_injective hA x
  | B => exact updB_injective hB x

/-- Settles O31: a step is eight shifts of the byte's entry, and each is mirrored. -/
theorem variantsAreMirrorImages : Obligations.VariantsAreMirrorImages := by
  unfold Obligations.VariantsAreMirrorImages
  exact ⟨by decide, updA_reverse⟩

/-- Settles O27, by the definition of `crcInit` and the defaults of `Config`. -/
theorem crcClrResult : Obligations.CrcClrResult := by
  unfold Obligations.CrcClrResult
  exact fun s => ⟨rfl, rfl, rfl⟩

/-- Settles O32: the value of `crcFin` under each variant. -/
theorem crcGetResult : Obligations.CrcGetResult := by
  unfold Obligations.CrcGetResult
  intro s
  have hvalue : ((crcFin s.variant s.acc).setWidth 32).toNat = (crcFin s.variant s.acc).toNat :=
    BitVec.toNat_setWidth_of_le (by decide)
  refine ⟨_, rfl, changesOnlyR_returned s _ _, rfl, fun hvariant => ?_, fun hvariant => ?_⟩
  · rw [State.setErr_r, State.setR_r, hvalue, hvariant]
    exact swap16_toNat s.acc
  · rw [State.setErr_r, State.setR_r, hvalue, hvariant]
    rfl

/-- Settles O34: the value is the recomputed trailer. -/
theorem crcFrameResult : Obligations.CrcFrameResult := by
  unfold Obligations.CrcFrameResult
  intro b s h
  rw [← recomputedTrailer_eq]
  exact ⟨_, exec_crcFrame_of_readable h, changesOnlyR_returned .., rfl, BitVec.toNat_setWidth_of_le (by decide)⟩

end Sys2Proof.Machine
end

section
/-! PROOFS. The reply-length ROM (spec/42_replylen.md R110, R111). -/

namespace Sys2Proof.Machine

/-- R111: `LEN.RESOLVE` of the code of a command reads that command's row of the ROM. -/
theorem exec_lenResolve_code {s : State} (h : s.cfg.codesDistinct) (c : Command) :
    exec (.lenResolve (s.cfg.code c)) s = .next { s with r := BitVec.ofNat 32 (replyPayload c), err := .none } := by
  rw [exec, execLenResolve, commandOf_code h]
  rfl

/-- Settles O35: the eight rows are the commands, each with its code and its row of the ROM. -/
theorem lenResolveResult : Obligations.LenResolveResult := by
  unfold Obligations.LenResolveResult
  intro s h p hp
  obtain ⟨c, -, rfl⟩ : ∃ c ∈ Command.all, (s.cfg.code c, BitVec.ofNat 32 (replyPayload c)) = p := List.mem_map.mp hp
  exact exec_lenResolve_code h c

end Sys2Proof.Machine
end

section
/-! PROOFS. What the framer and the deframer write (spec/43_framer.md R121 to R125), and that nothing but `FRM.HDR` reaches
into a sealed request (R130). -/

namespace Sys2Proof.Machine

section Operations

variable {s : State}

theorem noOpenPacket_of_open (h : OpenPacket s) : noOpenPacket s = false := by
  obtain ⟨hsealed, hlen⟩ := h
  simp [noOpenPacket, hsealed, hlen]

theorem noOpenPacket_of_sealed (h : s.isSealed = true) : noOpenPacket s = true := by
  simp [noOpenPacket, h]

/-- Every byte of either buffer after one byte is put behind a packet. -/
theorem readByte_append (s : State) (b b' : Buf) (x : Byte) (j : Nat) :
    readByte (s.setBuf b ((s.buf b).splice (s.len b) [x])) b' j =
      if b' = b ∧ j = s.len b then x else readByte s b' j := by
  have hindex : (s.len b ≤ j ∧ j < s.len b + 1) ↔ j = s.len b := by omega
  refine (readByte_store s b b' (s.len b) [x] _ false j).trans ?_
  simp only [List.length_singleton, hindex]
  split
  · next hat => simp [hat.2]
  · rfl

/-- R122: `FRM.PAY` on an open packet with room. -/
theorem exec_frmPay_of_open (h : OpenPacket s) (hroom : s.len .tx < 21) (x : Byte) :
    exec (.frmPay x) s = .next ((s.setBuf .tx (s.tx.splice (s.len .tx) [x])).setErr .none) := by
  rw [exec, execFrmPay_eq, noOpenPacket_of_open h, if_neg (by decide),
    if_neg (show ¬s.len .tx ≥ frameMax - 2 from Nat.not_le.mpr hroom)]

/-- R189: `FRM.PAY` on an open packet without room drops the byte. -/
theorem exec_frmPay_of_full (h : OpenPacket s) (hfull : 21 ≤ s.len .tx) (x : Byte) :
    exec (.frmPay x) s = .next (s.setErr .frameOverflow) := by
  rw [exec, execFrmPay_eq, noOpenPacket_of_open h, if_neg (by decide), if_pos (show s.len .tx ≥ frameMax - 2 from hfull)]

/-- R123: `FRM.SEAL` on an open packet with room for its trailer. -/
theorem exec_frmSeal_of_open (h : OpenPacket s) (hroom : s.len .tx ≤ 21) :
    exec .frmSeal s = .next (s.withTrailer.setErr .none) := by
  rw [exec, execFrmSeal, sealPacket_eq, noOpenPacket_of_open h, if_neg (by decide),
    if_pos (show s.len .tx + 2 ≤ frameMax from Nat.add_le_add_right hroom 2)]

/-- R125: `DFR.PUSH` with room. -/
theorem exec_dfrPush_of_lt (hroom : s.len .rx < 23) (x : Byte) :
    exec (.dfrPush x) s = .next ((s.setBuf .rx (s.rx.splice (s.len .rx) [x])).setErr .none) :=
  (pushReply_eq x s).trans (if_neg hroom.ne)

end Operations

/-- A byte cut out of an address, as a number (R55). -/
theorem extractByte_toNat (a : Word) (n : Nat) : (a.extractLsb' n 8).toNat = a.toNat / 2 ^ n % 256 := by
  rw [BitVec.extractLsb'_toNat, Nat.shiftRight_eq_div_pow]

/-- Settles O37: the header is stored from the first byte on, and the address is cut into its bytes. -/
theorem frmHdrResult : Obligations.FrmHdrResult := by
  unfold Obligations.FrmHdrResult
  intro c a s
  have hbyte : ∀ j, j < 5 → readByte (s.opened (wordBytes a ++ [c])) .tx j = (wordBytes a ++ [c]).getD j 0 :=
    fun j hj => (readByte_splice_zero s .tx .tx _ j).trans (if_pos ⟨rfl, hj⟩)
  have hlow : a.toNat / 2 ^ 0 % 256 = a.toNat % 256 := by simp
  have hhigh : a.toNat / 2 ^ 24 % 256 = a.toNat / 2 ^ 24 := by omega
  refine ⟨_, startPacket_eq_opened s c a, rfl, rfl, rfl, ?_, ?_, ?_, ?_, hbyte 4 (by decide),
    fun j hj => readByte_splice_zero_above s .tx hj, fun j => rfl⟩
  · rw [hbyte 0 (by decide), ← hhigh]
    exact extractByte_toNat a 24
  · rw [hbyte 1 (by decide)]
    exact extractByte_toNat a 16
  · rw [hbyte 2 (by decide)]
    exact extractByte_toNat a 8
  · rw [hbyte 3 (by decide), ← hlow]
    exact extractByte_toNat a 0

/-- Settles O38: the byte is put behind the packet. -/
theorem frmPayResult : Obligations.FrmPayResult := by
  unfold Obligations.FrmPayResult
  intro x s hopen hroom
  have hbyte := readByte_append s .tx .tx x
  exact ⟨_, exec_frmPay_of_open hopen hroom x, rfl, Packet.splice_len (bs := [x]) (hroom.trans (by decide)), rfl,
    (hbyte _).trans (if_pos ⟨rfl, rfl⟩), fun j hj => (hbyte j).trans (if_neg fun hat => hj hat.2), fun j => rfl⟩

/-- Settles O39: the trailer is put behind the packet, and its two bytes make it again. -/
theorem frmSealResult : Obligations.FrmSealResult := by
  unfold Obligations.FrmSealResult
  intro s hopen hroom
  have hbyte : ∀ j, readByte (s.withTrailer.setErr .none) .tx j = _ := readByte_withTrailer s
  refine ⟨_, exec_frmSeal_of_open hopen hroom, rfl, State.withTrailer_len (Nat.add_le_add_right hroom 2), rfl, ?_,
    fun j h0 h1 => (hbyte j).trans (if_neg (by omega)), fun j => rfl⟩
  rw [← be16_toNat, hbyte, hbyte, if_pos (by omega), if_pos (by omega)]
  simp [halfBytes, State.crcOf, readBytes]

/-- Settles O41: an empty run is stored from the first byte on. -/
theorem dfrClrResult : Obligations.DfrClrResult := by
  unfold Obligations.DfrClrResult
  exact fun s => ⟨_, rfl, rfl, rfl, rfl, fun b j => readByte_changed s .rx b 0 j⟩

/-- Settles O42: the byte is put behind the reply. -/
theorem dfrPushResult : Obligations.DfrPushResult := by
  unfold Obligations.DfrPushResult
  intro x s hroom
  have hbyte := readByte_append s .rx .rx x
  exact ⟨_, exec_dfrPush_of_lt hroom x, rfl, Packet.splice_len (bs := [x]) hroom, rfl,
    (hbyte _).trans (if_pos ⟨rfl, rfl⟩), fun j hj => (hbyte j).trans (if_neg fun hat => hj hat.2), fun j => rfl⟩

section Sealed

/-- What R130 protects: the seal, the length and the bytes of the request. -/
structure SameRequest (s t : State) : Prop where
  isSealed : t.isSealed = s.isSealed
  len : t.len .tx = s.len .tx
  bytes : t.tx.bytes = s.tx.bytes

variable {s t u : State}

theorem SameRequest.trans (h : SameRequest s t) (h' : SameRequest t u) : SameRequest s u where
  isSealed := h'.isSealed.trans h.isSealed
  len := h'.len.trans h.len
  bytes := h'.bytes.trans h.bytes

/-- An operation whose row of R10 names neither `SEALED` nor the request's length and bytes leaves them. -/
theorem WritesOnly.sameRequest {e : Effects} (h : WritesOnly e s t) (hsealed : e.isSealed = false) (hlen : .tx ∉ e.len)
    (hbytes : .tx ∉ e.bytes) : SameRequest s t where
  isSealed := h.isSealed hsealed
  len := h.len .tx hlen
  bytes := h.bytes .tx hbytes

theorem clearReply_sameRequest (h : clearReply s = .next t) : SameRequest s t :=
  (execDfrClr_writesOnly h).sameRequest rfl (by decide) (by decide)

theorem pushReply_sameRequest {x : Byte} (h : pushReply x s = .next t) : SameRequest s t :=
  (execDfrPush_writesOnly h).sameRequest rfl (by simp [effects]) (by simp [effects])

theorem pushAll_sameRequest {xs : List Byte} (h : pushAll xs s = .next t) : SameRequest s t := by
  induction xs generalizing s with
  | nil =>
    cases h
    exact ⟨rfl, rfl, rfl⟩
  | cons x xs ih =>
    obtain ⟨u, hpush, hrest⟩ := andThen_eq_next.mp h
    exact (pushReply_sameRequest hpush).trans (ih hrest)

theorem receiveReply_sameRequest {c : Command} {a : Word} {p : List Byte} {x : Half}
    (h : receiveReply c a p x s = .next t) : SameRequest s t := by
  unfold receiveReply receiveBytes at h
  obtain ⟨u, hclear, hpush⟩ := andThen_eq_next.mp h
  exact (clearReply_sameRequest hclear).trans (pushAll_sameRequest hpush)

/-- R122: a sealed request takes no payload byte. -/
theorem execFrmPay_sameRequest {x : Byte} (hsealed : s.isSealed = true) (h : execFrmPay x s = .next t) :
    SameRequest s t := by
  rw [execFrmPay_eq, if_pos (noOpenPacket_of_sealed hsealed)] at h
  cases h
  exact ⟨rfl, rfl, rfl⟩

/-- R123: a sealed request is not sealed again. -/
theorem sealPacket_sameRequest (hsealed : s.isSealed = true) (h : sealPacket s = .next t) : SameRequest s t := by
  rw [sealPacket_eq, if_pos (noOpenPacket_of_sealed hsealed)] at h
  cases h
  exact ⟨rfl, rfl, rfl⟩

/-- R130: only `FRM.HDR`, and a request frame, which begins with it, changes a sealed request. -/
theorem exec_sameRequest {i : Instr} (hsealed : s.isSealed = true) (hhdr : ∀ c a, i ≠ .frmHdr c a)
    (hrequest : ∀ c a, i ≠ .request c a) (h : exec i s = .next t) : SameRequest s t := by
  cases i with
  | bcdDec _ _ | bcdDec8 _ | crcClr | crcUpd _ | crcGet | crcFrame _ | lenResolve _ | pktCheck _ | bufRd _ _ | getAddr _
  | getCmd _ | getCrc _ | getB _ _ | getH _ _ | getT _ _ | getW _ _ | getDt _ _ =>
    exact (exec_writesOnly rfl h).sameRequest rfl (by simp [effects]) (by simp [effects])
  | frmHdr c a => exact absurd rfl (hhdr c a)
  | frmPay x => exact execFrmPay_sameRequest hsealed h
  | frmSeal => exact sealPacket_sameRequest hsealed h
  | dfrClr => exact clearReply_sameRequest h
  | dfrPush x => exact pushReply_sameRequest h
  | frameReqReadTime a => exact absurd rfl (hrequest .readTime a)
  | frameReqReadPower a => exact absurd rfl (hrequest .readPower a)
  | frameReqReadCounters a => exact absurd rfl (hrequest .readCounters a)
  | frameReqReadBattery a => exact absurd rfl (hrequest .readBattery a)
  | frameReqReadTariffs a => exact absurd rfl (hrequest .readTariffs a)
  | frameReqReadTariff a => exact absurd rfl (hrequest .readTariff a)
  | frameReqReadUip a => exact absurd rfl (hrequest .readUip a)
  | frameReqReadLineParams a => exact absurd rfl (hrequest .readLineParams a)
  | frameRepReadTime _ _ _ | frameRepReadPower _ _ _ | frameRepReadCounters _ _ _ | frameRepReadBattery _ _ _
  | frameRepReadTariffs _ _ _ | frameRepReadTariff _ _ _ | frameRepReadUip _ _ _ | frameRepReadLineParams _ _ _ =>
    simp only [exec] at h
    exact receiveReply_sameRequest h

end Sealed

/-- Settles O18: what an instruction leaves of the request, byte by byte. -/
theorem sealedPacketIsImmutable : Obligations.SealedPacketIsImmutable := by
  unfold Obligations.SealedPacketIsImmutable
  intro i s t hsealed hhdr hrequest h
  obtain ⟨hseal, hlen, hbytes⟩ := exec_sameRequest hsealed hhdr hrequest h
  refine ⟨hseal.trans hsealed, hlen, fun j _ => ?_⟩
  rw [readByte, readByte, State.buf_tx, State.buf_tx, hbytes]

end Sys2Proof.Machine
end

section
/-! PROOFS. What `BUILD`, `SEND` and `RECV` leave (spec/30_encoding.md R68; spec/43_framer.md R120 to R128), and what the
accessors read back from a buffer that holds a frame. -/

namespace Sys2Proof.Machine

section Built

/-- The bytes of a packet: address, command byte, payload and trailer (R50). -/
def frameBytes (c : Byte) (a : Word) (p : List Byte) (x : Half) : List Byte := wordBytes a ++ [c] ++ p ++ halfBytes x

theorem frameBytes_length (c : Byte) (a : Word) (p : List Byte) (x : Half) :
    (frameBytes c a p x).length = p.length + 7 := by
  simp [frameBytes]
  omega

variable (s : State) {bs : List Byte} {e : ErrCode}

/-- The bytes of a request before its trailer. At most 16 payload bytes fit (R51, R122). -/
def builtBody (c : Byte) (a : Word) (p : List Byte) : List Byte := wordBytes a ++ [c] ++ p.take 16

theorem builtBody_length (c : Byte) (a : Word) (p : List Byte) : (builtBody c a p).length = 5 + min 16 p.length := by
  simp [builtBody]
  omega

theorem builtBody_ne_nil (c : Byte) (a : Word) (p : List Byte) : builtBody c a p ≠ [] := by
  simp [builtBody]

/-- The request that `BUILD` makes: the bytes that fit and their trailer (R68). -/
def builtFrame (s : State) (c : Byte) (a : Word) (p : List Byte) : List Byte :=
  frameBytes c a (p.take 16) (s.crcOf (builtBody c a p))

theorem builtFrame_length (c : Byte) (a : Word) (p : List Byte) : (builtFrame s c a p).length = min 16 p.length + 7 := by
  simp [builtFrame, frameBytes_length]

theorem builtFrame_length_le (c : Byte) (a : Word) (p : List Byte) : (builtFrame s c a p).length ≤ frameMax := by
  rw [builtFrame_length, frameMax]
  omega

theorem sealed_len (hfit : bs.length ≤ frameMax) : (s.sealed bs).len .tx = bs.length := opened_len s hfit

theorem readBytes_sealed (hfit : bs.length ≤ frameMax) :
    readBytes (s.sealed bs) .tx 0 ((s.sealed bs).len .tx) = bs := by
  rw [sealed_len s hfit]
  exact readBytes_splice_zero s .tx bs

theorem readBytes_received (hfit : bs.length ≤ frameMax) :
    readBytes (s.received bs) .rx 0 ((s.received bs).len .rx) = bs := by
  rw [received_len s hfit]
  exact readBytes_splice_zero s .rx bs

theorem readByte_sealed {j : Nat} (hj : j < bs.length) : readByte (s.sealed bs) .tx j = bs[j] := by
  refine (readByte_splice_zero s .tx .tx bs j).trans ?_
  rw [if_pos ⟨rfl, hj⟩, List.getD_eq_getElem bs 0 hj]

theorem openPacket_opened (hne : bs ≠ []) (hfit : bs.length ≤ frameMax) : OpenPacket (s.opened bs) :=
  ⟨rfl, (opened_len s hfit).trans_ne (List.length_eq_zero_iff.not.mpr hne)⟩

theorem exec_frmPay_setErr (x : Byte) : exec (.frmPay x) (s.setErr e) = exec (.frmPay x) s := by
  rw [exec, exec, execFrmPay_eq, execFrmPay_eq]
  rfl

theorem exec_frmSeal_setErr : exec .frmSeal (s.setErr e) = exec .frmSeal s := by
  rw [exec, exec, execFrmSeal, execFrmSeal, sealPacket_eq, sealPacket_eq]
  rfl

/-- R122: a byte that leaves room for the trailer goes behind the bytes of the open packet. -/
theorem exec_frmPay_opened (x : Byte) (hne : bs ≠ []) (hroom : bs.length < 21) :
    exec (.frmPay x) (s.opened bs) = .next (s.opened (bs ++ [x])) := by
  have hfit : bs.length ≤ frameMax := hroom.le.trans (by decide)
  have hlen : (s.opened bs).len .tx = bs.length := opened_len s hfit
  rw [exec_frmPay_of_open (openPacket_opened s hne hfit) (hlen.trans_lt hroom), hlen, State.opened, State.opened,
    ← Packet.splice_splice, Nat.zero_add]
  rfl

/-- R189: a byte that leaves no room for the trailer is dropped. -/
theorem exec_frmPay_opened_full (x : Byte) (hne : bs ≠ []) (hfull : bs.length = 21) :
    exec (.frmPay x) (s.opened bs) = .next ((s.opened bs).setErr .frameOverflow) := by
  have hfit : bs.length ≤ frameMax := hfull.trans_le (by decide)
  exact exec_frmPay_of_full (openPacket_opened s hne hfit) (hfull.symm.trans (opened_len s hfit).symm).le x

/-- R122, R189: of the payload bytes given, those that fit go behind the bytes of the open packet, in order. -/
theorem runOps_map_frmPay (p : List Byte) (hne : bs ≠ []) (hfit : bs.length ≤ 21) :
    ∃ e', runOps (p.map .frmPay) ((s.opened bs).setErr e) =
      .next ((s.opened (bs ++ p.take (21 - bs.length))).setErr e') := by
  induction p generalizing bs e with
  | nil => exact ⟨e, by simp⟩
  | cons x xs ih =>
    rw [List.map_cons, runOps_cons, exec_frmPay_setErr]
    rcases hfit.lt_or_eq with hroom | hfull
    · obtain ⟨e', hrest⟩ := ih (bs := bs ++ [x]) (e := .none) (by simp) (by simpa using hroom)
      have htake : (x :: xs).take (21 - bs.length) = x :: xs.take (21 - (bs ++ [x]).length) := by
        rw [List.length_append, List.length_singleton, ← Nat.sub_sub]
        exact List.take_cons (Nat.sub_pos_of_lt hroom)
      rw [exec_frmPay_opened s x hne hroom, andThen_next, htake, List.append_cons bs x (xs.take _)]
      exact ⟨e', hrest⟩
    · rw [exec_frmPay_opened_full s x hne hfull, andThen_next]
      simpa [hfull] using ih (e := .frameOverflow) hne hfit

/-- R68: `BUILD` leaves the header, the payload bytes that fit and their trailer, sealed. -/
theorem runPseudo_build (c : Byte) (a : Word) (p : List Byte) :
    runPseudo (.build c a p) s = .next (s.sealed (builtFrame s c a p)) := by
  have hheader : exec (.frmHdr c a) s = .next ((s.opened (wordBytes a ++ [c])).setErr .none) := startPacket_eq_opened s c a
  obtain ⟨e, hpayload⟩ := runOps_map_frmPay s (e := .none) p (bs := wordBytes a ++ [c]) (by simp) (by simp)
  have hseal : exec .frmSeal (s.opened (builtBody c a p)) = .next (s.sealed (builtFrame s c a p)) :=
    sealPacket_opened s (builtBody_ne_nil c a p) (by rw [builtBody_length, frameMax]; omega)
  rw [runPseudo, buildOps, runOps_cons, hheader, andThen_next, runOps_append, hpayload, andThen_next, runOps_cons]
  simp only [List.length_append, wordBytes_length, List.length_singleton]
  rw [← builtBody, exec_frmSeal_setErr, hseal]
  rfl

end Built

section Transported

/-- R127: `BUF.RD` of a byte below the length. -/
theorem exec_bufRd_of_lt {s : State} {b : Buf} {i : Byte} (h : i.toNat < s.len b) :
    exec (.bufRd b i) s = .next ((s.setR ((readByte s b i.toNat).setWidth 32)).setErr .none) := by
  rw [exec, execBufRd_eq_guarded, checkIndex_eq_none.mpr h]
  rfl

/-- R41, R127: a sequence of `BUF.RD` collects the bytes at its indexes and changes nothing but `R` and `ERR`. -/
theorem runCollect_bufRd (s : State) (b : Buf) (is : List Nat) (h : ∀ i ∈ is, i < s.len b) :
    ∃ v e, runCollect (is.map fun i => .bufRd b (BitVec.ofNat 8 i)) s =
      .next (is.map fun i => (readByte s b i).setWidth 32, (s.setR v).setErr e) := by
  induction is generalizing s with
  | nil => exact ⟨s.r, s.err, rfl⟩
  | cons i is ih =>
    obtain ⟨hi, his⟩ := List.forall_mem_cons.mp h
    have hindex : (BitVec.ofNat 8 i).toNat = i :=
      Nat.mod_eq_of_lt (hi.trans_le ((s.len_le b).trans (by decide)))
    have hread := exec_bufRd_of_lt (hindex.symm ▸ hi)
    obtain ⟨v, e, hrest⟩ := ih ((s.setR ((readByte s b i).setWidth 32)).setErr .none) (by simpa using his)
    rw [hindex] at hread
    refine ⟨v, e, ?_⟩
    rw [List.map_cons, runCollect, hread, andThen_next, hrest]
    simp only [readByte_setErr, readByte_setR]
    rfl

/-- R68, R218: `SEND` hands over the bytes of the request and changes nothing but `R` and `ERR`. -/
theorem sendBytes_eq (s : State) :
    ∃ v e, sendBytes s = .next (readBytes s .tx 0 (s.len .tx), (s.setR v).setErr e) := by
  obtain ⟨v, e, hcollect⟩ := runCollect_bufRd s .tx (List.range (s.len .tx)) fun i hi => List.mem_range.mp hi
  refine ⟨v, e, ?_⟩
  rw [sendBytes, sendOps, hcollect, andThen_next]
  simp [readBytes, Function.comp_def]

/-- R68, R219: `RECV` of bytes that fit leaves them in `RXB`. -/
theorem runPseudo_recv (s : State) {bs : List Byte} (hfit : bs.length ≤ frameMax) :
    runPseudo (.recv bs) s = .next (s.received bs) := by
  have hclear : exec .dfrClr s = .next (s.received []) := clearReply_eq_received s
  rw [runPseudo, runOps_cons, hclear, andThen_next, runOps_map_dfrPush]
  exact pushAll_received s hfit

end Transported

/-- The buffer holds a readable packet: address, command byte, payload and some trailer (R50). -/
structure HoldsFrame (s : State) (b : Buf) (c : Byte) (a : Word) (p : List Byte) : Prop where
  readable : Readable s b
  len : s.len b = p.length + 7
  bytes : ∃ x, readBytes s b 0 (s.len b) = frameBytes c a p x

namespace HoldsFrame

variable {s : State} {b : Buf} {c : Byte} {a : Word} {p : List Byte} (h : HoldsFrame s b c a p)
include h

/-- Its bytes are those of a reply under a profile that gives some command the code `c`. -/
theorem exists_reply : ∃ cfg cmd x, cfg.code cmd = c ∧ readBytes s b 0 (p.length + 7) = replyBytes cfg cmd a p x := by
  obtain ⟨x, hbytes⟩ := h.bytes
  rw [h.len] at hbytes
  exact ⟨{ Config.standard with cmdReadTime := c }, .readTime, x, rfl, hbytes⟩

/-- R141: `GET.ADDR` gives the address. -/
theorem exec_getAddr : exec (.getAddr b) s = .next ((s.setR a).setErr .none) := by
  obtain ⟨cfg, cmd, x, -, hframe⟩ := h.exists_reply
  have haddress : packetAddress s b = a :=
    BitVec.eq_of_toNat_eq ((be32_toNat ..).trans (address_of_frame hframe))
  rw [exec, execGetAddr, checkPacket_eq_none.mpr h.readable, haddress]
  rfl

/-- R142: `GET.CMD` gives the command byte. -/
theorem exec_getCmd : exec (.getCmd b) s = .next ((s.setR (c.setWidth 32)).setErr .none) := by
  obtain ⟨cfg, cmd, x, hcode, hframe⟩ := h.exists_reply
  have hcommand : packetCommand s b = c := (command_of_frame hframe).trans hcode
  rw [exec, execGetCmd, checkPacket_eq_none.mpr h.readable, hcommand]
  rfl

/-- R144: `GET.B` gives each byte of the payload. -/
theorem exec_getB {j : Nat} {y : Byte} (hj : p[j]? = some y) :
    exec (.getB b (BitVec.ofNat 8 j)) s = .next ((s.setR (y.setWidth 32)).setErr .none) := by
  obtain ⟨cfg, cmd, x, -, hframe⟩ := h.exists_reply
  obtain ⟨hjp, -⟩ := List.getElem?_eq_some_iff.mp hj
  have hfit : p.length + 7 ≤ 23 := h.len ▸ s.len_le b
  have hoffset : (BitVec.ofNat 8 j).toNat = j := Nat.mod_eq_of_lt (by omega)
  have hinside : FieldInside s b j 1 := ⟨h.readable, by rw [h.len]; omega⟩
  have hbyte : payloadByte s b j = y := Option.some.inj ((payload_of_frame hframe hjp).symm.trans hj)
  rw [exec, execGetB, hoffset, checkWindow_of_fieldInside hinside, hbyte]
  rfl

end HoldsFrame

/-- A frame of at most 16 payload bytes fits its buffer (R51). -/
theorem frameBytes_length_le (c : Byte) (a : Word) {p : List Byte} (x : Half) (hfit : p.length ≤ 16) :
    (frameBytes c a p x).length ≤ frameMax :=
  (frameBytes_length c a p x).trans_le (Nat.add_le_add_right hfit 7)

theorem holdsFrame_sealed (s : State) (c : Byte) (a : Word) {p : List Byte} (x : Half) (hfit : p.length ≤ 16) :
    HoldsFrame (s.sealed (frameBytes c a p x)) .tx c a p :=
  have hlength := frameBytes_length_le c a x hfit
  have hlen := (sealed_len s hlength).trans (frameBytes_length c a p x)
  ⟨⟨fun _ => rfl, hlen ▸ Nat.le_add_left 7 _⟩, hlen, x, readBytes_sealed s hlength⟩

theorem holdsFrame_received (s : State) (c : Byte) (a : Word) {p : List Byte} (x : Half) (hfit : p.length ≤ 16) :
    HoldsFrame (s.received (frameBytes c a p x)) .rx c a p :=
  have hlength := frameBytes_length_le c a x hfit
  have hlen := (received_len s hlength).trans (frameBytes_length c a p x)
  ⟨⟨nofun, hlen ▸ Nat.le_add_left 7 _⟩, hlen, x, readBytes_received s hlength⟩

/-- Settles O55: `BUILD` leaves a frame in `TXB`, `SEND` and `RECV` carry its bytes to `RXB`, and the accessors read the
same values from either buffer. -/
theorem packetRoundTrip : Obligations.PacketRoundTrip := by
  unfold Obligations.PacketRoundTrip
  intro c a p s hfit
  obtain ⟨x, hbuilt⟩ : ∃ x, builtFrame s c a p = frameBytes c a p x :=
    ⟨_, by rw [builtFrame, List.take_of_length_le hfit]⟩
  have hbuild := runPseudo_build s c a p
  rw [hbuilt] at hbuild
  have hlength := frameBytes_length_le c a x hfit
  have hsealed := holdsFrame_sealed s c a x hfit
  obtain ⟨v, e, hsend⟩ := sendBytes_eq (s.sealed (frameBytes c a p x))
  rw [readBytes_sealed s hlength] at hsend
  refine ⟨_, _, _, _, hbuild, hsealed.len, hsend, runPseudo_recv _ hlength, ?_⟩
  intro q hq
  have h : HoldsFrame q.2 q.1 c a p := by
    simp only [List.mem_cons, List.not_mem_nil, or_false] at hq
    rcases hq with rfl | rfl
    · exact hsealed
    · exact holdsFrame_received _ c a x hfit
  exact ⟨⟨_, h.exec_getAddr, rfl, rfl⟩, ⟨_, h.exec_getCmd, rfl, rfl⟩, fun j y hj => ⟨_, h.exec_getB hj, rfl, rfl⟩⟩

end Sys2Proof.Machine
end

section
/-! PROOFS. `PKT.CHECK` (spec/43_framer.md R126) and what it can tell (spec/41_crc.md R100): a packet is valid when its bytes
are some bytes with their CRC behind them, `BUILD` makes such packets, and none is one changed byte away from another. -/

namespace Sys2Proof.Machine

section Check

variable {s : State} {b : Buf}

/-- R126: `PKT.CHECK` of a readable packet. -/
theorem exec_pktCheck_of_readable (h : Readable s b) :
    exec (.pktCheck b) s =
      .next (((s.setValid b (packetValid s b)).setR (if packetValid s b then 1 else 0)).setErr
        (if !packetValid s b then .corruptReply else .none)) := by
  rw [exec, execPktCheck, checkPacket_eq_none.mpr h]
  rfl

theorem packetValid_iff : packetValid s b = true ↔ recomputedTrailer s b = packetTrailer s b := beq_iff_eq

/-- R57: some bytes with their CRC behind them. -/
def ValidFrame (cfg : Config) (v : Variant) (bs : List Byte) : Prop :=
  ∃ body, bs = body ++ halfBytes (crc16 cfg v body)

theorem halfBytes_injective : Function.Injective halfBytes := by
  intro x y h
  simp only [halfBytes, List.cons.injEq, and_true] at h
  obtain ⟨hhigh, hlow⟩ := h
  rw [← be16_halfBytes x, ← be16_halfBytes y, hhigh, hlow]

/-- R57: a packet's bytes are those before its trailer and then its trailer. -/
theorem readBytes_eq_append_trailer (h : 2 ≤ s.len b) :
    readBytes s b 0 (s.len b) = readBytes s b 0 (s.len b - 2) ++ halfBytes (packetTrailer s b) := by
  obtain ⟨n, hn⟩ := Nat.exists_eq_add_of_le' h
  simp [packetTrailer, hn, readBytes, List.range_succ]

/-- R99: `isValid`, told by the bytes of the packet. -/
theorem packetValid_iff_validFrame (h : 2 ≤ s.len b) :
    packetValid s b = true ↔ ValidFrame s.cfg s.variant (readBytes s b 0 (s.len b)) := by
  rw [packetValid_iff, readBytes_eq_append_trailer h]
  constructor
  · exact fun hvalid => ⟨_, by rw [← hvalid]; rfl⟩
  · rintro ⟨body, hbody⟩
    obtain ⟨hbefore, htrailer⟩ := List.append_inj' hbody rfl
    rw [halfBytes_injective htrailer, ← hbefore]
    rfl

end Check

section Detection

variable {cfg : Config} (v : Variant) (hA : cfg.polyA.getLsbD 15 = true) (hB : cfg.polyB.getLsbD 0 = true)

theorem swap16_swap16 (x : Half) : swap16 (swap16 x) = x := by
  have hx : x.toNat < 65536 := x.isLt
  refine BitVec.eq_of_toNat_eq ?_
  rw [swap16_toNat, swap16_toNat]
  omega

theorem crcFin_injective : Function.Injective (crcFin v) := by
  cases v with
  | A => exact Function.LeftInverse.injective swap16_swap16
  | B => exact Function.injective_id

/-- R91, R92: where a byte enters the remainder. -/
def entered : Variant → Byte → Half
  | .A, x => x.setWidth 16
  | .B, x => x.setWidth 16 <<< 8

theorem entered_injective : Function.Injective (entered v) := by
  intro x y h
  have hnat := congrArg BitVec.toNat h
  refine BitVec.eq_of_toNat_eq ?_
  have := x.isLt
  have := y.isLt
  cases v with
  | A =>
    simp [entered] at hnat
    omega
  | B =>
    simp [entered, Nat.shiftLeft_eq] at hnat
    omega

/-- R91, R92: a step absorbs its byte into the remainder before it shifts. -/
theorem crcStep_eq_of_entered (cfg : Config) (a : Half) (x : Byte) :
    crcStep cfg v a x = crcStep cfg v (a ^^^ entered v x) 0 := by
  cases v <;> simp [crcStep, updA, updB, entered]

include hA hB

/-- R100: a step loses nothing of the remainder. -/
theorem crcStep_injective (x : Byte) : Function.Injective fun a => crcStep cfg v a x :=
  (crcStepIsInvertible cfg v x hA hB).injective

/-- R100: a step loses nothing of the byte. -/
theorem crcStep_byte_injective (a : Half) : Function.Injective (crcStep cfg v a) := by
  intro x y h
  rw [crcStep_eq_of_entered, crcStep_eq_of_entered v cfg a y] at h
  exact entered_injective v ((BitVec.xor_right_inj a).mp (crcStep_injective v hA hB 0 h))

/-- R100: different remainders stay different over the same bytes. -/
theorem crcRaw_injective (bytes : List Byte) : Function.Injective fun a => crcRaw cfg v a bytes := by
  induction bytes with
  | nil => exact Function.injective_id
  | cons x bytes ih => exact ih.comp (crcStep_injective v hA hB x)

/-- R100: bytes that differ in one place have different CRCs. -/
theorem crc16_set_ne {body : List Byte} {m : Nat} (hm : m < body.length) {y : Byte} (hy : y ≠ body[m]) :
    crc16 cfg v (body.set m y) ≠ crc16 cfg v body := by
  intro h
  have hraw := crcFin_injective v h
  rw [List.set_eq_take_append_cons_drop, if_pos hm] at hraw
  conv_rhs at hraw => rw [← List.take_append_drop m body, List.drop_eq_getElem_cons hm]
  simp only [crcRaw, List.foldl_append, List.foldl_cons] at hraw
  exact hy (crcStep_byte_injective v hA hB _ (crcRaw_injective v hA hB (body.drop (m + 1)) hraw))

/-- R100: a valid packet with one byte changed is not valid: the change is in the bytes the CRC covers, or in the trailer. -/
theorem not_validFrame_set {bs : List Byte} (hvalid : ValidFrame cfg v bs) {m : Nat} (hm : m < bs.length) {y : Byte}
    (hy : y ≠ bs[m]) : ¬ValidFrame cfg v (bs.set m y) := by
  rintro ⟨body', hbody'⟩
  obtain ⟨body, rfl⟩ := hvalid
  rcases Nat.lt_or_ge m body.length with hbefore | htrailer
  · rw [List.set_append_left _ _ hbefore] at hbody'
    obtain ⟨rfl, hcrc⟩ := List.append_inj' hbody' rfl
    rw [List.getElem_append_left hbefore] at hy
    exact crc16_set_ne v hA hB hbefore hy (halfBytes_injective hcrc).symm
  · rw [List.set_append_right _ _ htrailer] at hbody'
    obtain ⟨rfl, hcrc⟩ := List.append_inj' hbody' (by simp)
    rw [List.getElem_append_right htrailer] at hy
    have hlt : m - body.length < (halfBytes (crc16 cfg v body)).length := by
      rw [List.length_append] at hm
      omega
    have hkept := congrArg (·[m - body.length]?) hcrc
    simp only [List.getElem?_set_self hlt, List.getElem?_eq_getElem hlt, Option.some.injEq] at hkept
    exact hy hkept

end Detection

/-- XOR with one bit changes a byte. -/
theorem xor_bit_ne (x : Byte) {k : Nat} (hk : k < 8) : x ^^^ BitVec.ofNat 8 (2 ^ k) ≠ x := by
  have hbit : ∀ k < 8, BitVec.ofNat 8 (2 ^ k) ≠ 0 := by decide
  intro h
  exact hbit k hk ((BitVec.xor_right_inj x).mp (h.trans BitVec.xor_zero.symm))

/-- R68, R123: what `BUILD` makes is a valid packet. -/
theorem builtFrame_valid (s : State) (c : Byte) (a : Word) (p : List Byte) :
    ValidFrame s.cfg s.variant (builtFrame s c a p) := ⟨builtBody c a p, rfl⟩

/-- Settles O44: the flag is `isValid`, and the stored trailer is two bytes, the more significant first. -/
theorem pktCheckResult : Obligations.PktCheckResult := by
  unfold Obligations.PktCheckResult
  refine ⟨rfl, fun b s h => ⟨_, packetValid s b, exec_pktCheck_of_readable h, ?_, ?_, fun b' j => by simp⟩⟩
  · rw [packetValid_iff, ← recomputedTrailer_eq, ← be16_toNat]
    exact BitVec.toNat_inj.symm
  · cases packetValid s b <;> rfl

section Verdict

variable (s : State) {bs : List Byte} (hlen : 7 ≤ bs.length) (hfit : bs.length ≤ frameMax)
include hlen hfit

/-- R126: a valid packet sealed in `TXB` passes the check. -/
theorem exec_pktCheck_sealed (hvalid : ValidFrame s.cfg s.variant bs) :
    exec (.pktCheck .tx) (s.sealed bs) = .next ((((s.sealed bs).setValid .tx true).setR 1).setErr .none) := by
  have hlen' : 7 ≤ (s.sealed bs).len .tx := hlen.trans_eq (sealed_len s hfit).symm
  have hcheck : packetValid (s.sealed bs) .tx = true := by
    rw [packetValid_iff_validFrame (by omega), readBytes_sealed s hfit]
    exact hvalid
  rw [exec_pktCheck_of_readable ⟨fun _ => rfl, hlen'⟩, hcheck]
  rfl

/-- R126, R187: a reply that is no valid packet fails the check. -/
theorem exec_pktCheck_received (hcorrupt : ¬ValidFrame s.cfg s.variant bs) :
    exec (.pktCheck .rx) (s.received bs) =
      .next ((((s.received bs).setValid .rx false).setR 0).setErr .corruptReply) := by
  have hlen' : 7 ≤ (s.received bs).len .rx := hlen.trans_eq (received_len s hfit).symm
  have hcheck : packetValid (s.received bs) .rx = false := by
    rw [← Bool.not_eq_true, packetValid_iff_validFrame (by omega), readBytes_received s hfit]
    exact hcorrupt
  rw [exec_pktCheck_of_readable (b := .rx) ⟨nofun, hlen'⟩, hcheck]
  rfl

end Verdict

/-- Settles O56: what `BUILD` leaves in `TXB` is valid. -/
theorem builtPacketIsValid : Obligations.BuiltPacketIsValid := by
  unfold Obligations.BuiltPacketIsValid
  intro c a p s
  have hlen : 7 ≤ (builtFrame s c a p).length := by simp [builtFrame_length]
  exact ⟨_, _, runPseudo_build s c a p,
    exec_pktCheck_sealed s hlen (builtFrame_length_le s c a p) (builtFrame_valid s c a p), rfl, rfl, rfl⟩

/-- Settles O57: the copy is a valid packet with one byte changed. -/
theorem singleBitErrorIsDetected : Obligations.SingleBitErrorIsDetected := by
  unfold Obligations.SingleBitErrorIsDetected
  intro c a p s t m k hA hB hbuild hm hk
  obtain rfl : t = s.sealed (builtFrame s c a p) := Host.Outcome.next.inj (hbuild.symm.trans (runPseudo_build s c a p))
  have hfit := builtFrame_length_le s c a p
  rw [sealed_len s hfit] at hm
  rw [readBytes_sealed s hfit, readByte_sealed s hm]
  have hcorrupt := not_validFrame_set s.variant hA hB (builtFrame_valid s c a p) hm (xor_bit_ne _ hk)
  have hlen : 7 ≤ (builtFrame s c a p).length := by simp [builtFrame_length]
  exact ⟨_, _, runPseudo_recv _ (List.length_set.trans_le hfit),
    exec_pktCheck_received _ (hlen.trans_eq List.length_set.symm) (List.length_set.trans_le hfit) hcorrupt, rfl, rfl, rfl⟩

end Sys2Proof.Machine
end

section
/-! PROOFS. The values of the accessors (spec/44_accessors.md R141 to R149): once its check finds nothing an accessor is its
body, and each value is read off the bytes of the packet. -/

namespace Sys2Proof.Machine

section Reads

variable {s : State} {b : Buf}

/-- R140: on a readable packet an operation that begins with the common check is its body. -/
theorem guarded_packet_of_readable (h : Readable s b) (body : Result) : guarded (checkPacket s b) s body = body := by
  rw [checkPacket_eq_none.mpr h, guarded_none]

/-- R140: on a field inside the payload an accessor is its body. -/
theorem guarded_window_of_inside {k w : Nat} (h : FieldInside s b k w) (body : Result) :
    guarded (checkWindow s b k w) s body = body := by
  rw [checkWindow_of_fieldInside h, guarded_none]

/-- R11, R182: what returning a value leaves, told by the number it is. -/
theorem exists_returned {i : Instr} {v : Word} {n : Nat} (h : exec i s = returnValue v s) (hv : v.toNat = n) :
    ∃ t, exec i s = .next t ∧ ChangesOnlyR s t ∧ t.err = .none ∧ t.r.toNat = n :=
  ⟨_, h, changesOnlyR_returned s v .none, rfl, hv⟩

/-- R11: a byte returned in `R` keeps its value. -/
theorem zeroExtended_byte_toNat (x : Byte) : (x.setWidth 32).toNat = x.toNat :=
  BitVec.toNat_setWidth_of_le (by decide)

/-- R9, R11: a big-endian half returned in `R`. -/
theorem zeroExtended_half_toNat (x y : Byte) : ((be16 x y).setWidth 32).toNat = 256 * x.toNat + y.toNat :=
  (BitVec.toNat_setWidth_of_le (by decide)).trans (be16_toNat x y)

/-- The half at payload offset `k`, by the indexes of its bytes in the buffer (R145). -/
theorem payloadHalf_eq (s : State) (b : Buf) (k : Nat) :
    payloadHalf s b k = be16 (readByte s b (5 + k)) (readByte s b (6 + k)) := by
  rw [payloadHalf, payloadByte_add]
  rfl

/-- The word at payload offset `k`, by the indexes of its bytes in the buffer (R146). -/
theorem payloadWord_eq (s : State) (b : Buf) (k : Nat) :
    payloadWord s b k =
      be32 (readByte s b (5 + k)) (readByte s b (6 + k)) (readByte s b (7 + k)) (readByte s b (8 + k)) := by
  rw [payloadWord, payloadByte_add, payloadByte_add, payloadByte_add]
  rfl

end Reads

section Record

variable (x : Byte)

/-- R82: the two digits of a byte as nibbles of the number it is. -/
theorem dec8_eq : dec8 x = x.toNat / 16 * 10 + x.toNat % 16 := by
  have hx : x.toNat < 256 := x.isLt
  rw [dec8, BitVec.extractLsb'_toNat, BitVec.extractLsb'_toNat, Nat.shiftRight_eq_div_pow]
  omega

theorem bad8_iff : bad8 x = true ↔ 9 < x.toNat / 16 ∨ 9 < x.toNat % 16 := by
  have hx : x.toNat < 256 := x.isLt
  rw [bad8, Bool.or_eq_true, decide_eq_true_iff, decide_eq_true_iff, BitVec.extractLsb'_toNat,
    BitVec.extractLsb'_toNat, Nat.shiftRight_eq_div_pow]
  omega

/-- R83: the value of two digits, good or not. -/
theorem dec8_le : dec8 x ≤ 165 := by
  have hx : x.toNat < 256 := x.isLt
  rw [dec8_eq]
  omega

/-- R149: two digits fit a register of the date-time record. -/
theorem ofNat_dec8_toNat : (BitVec.ofNat 8 (dec8 x)).toNat = dec8 x :=
  Nat.mod_eq_of_lt ((dec8_le x).trans_lt (by decide))

/-- R149: the year does not wrap in its 12 bits. -/
theorem ofNat_year_toNat : (BitVec.ofNat 12 (dec8 x + 2000)).toNat = dec8 x + 2000 :=
  Nat.mod_eq_of_lt ((Nat.add_le_add_right (dec8_le x) 2000).trans_lt (by decide))

theorem badDateTime_iff (x : Nat → Byte) :
    badDateTime x = true ↔ ∃ j ∈ [1, 2, 3, 4, 5, 6], 9 < (x j).toNat / 16 ∨ 9 < (x j).toNat % 16 := by
  simp [badDateTime, bad8_iff, or_assoc]

/-- R149: each register of the decoded record, with the byte it comes from. -/
theorem decodeDateTime_toNat (x : Nat → Byte) :
    ∀ p ∈ [(1, (decodeDateTime x).hour.toNat), (2, (decodeDateTime x).min.toNat), (3, (decodeDateTime x).sec.toNat),
        (4, (decodeDateTime x).day.toNat), (5, (decodeDateTime x).mon.toNat),
        (6, (decodeDateTime x).year.toNat - 2000)],
      p.2 = (x p.1).toNat / 16 * 10 + (x p.1).toNat % 16 := by
  simp only [decodeDateTime, ofNat_dec8_toNat, ofNat_year_toNat, Nat.add_sub_cancel]
  simp [dec8_eq]

/-- R149: the decoded year is 2000 or later. -/
theorem le_decodeDateTime_year (x : Nat → Byte) : 2000 ≤ (decodeDateTime x).year.toNat := by
  rw [decodeDateTime, ofNat_year_toNat]
  exact Nat.le_add_left 2000 _

end Record

section Operation

variable (s : State) (d : DateTime) (e : ErrCode)

/-- Writing the date-time registers changes nothing else but `ERR`. -/
theorem setDt_setErr_eq_update :
    (s.setDt d).setErr e = { s with dt := ((s.setDt d).setErr e).dt, err := ((s.setDt d).setErr e).err } := rfl

theorem setDt_setErr_keepsBytes : KeepsBytes s ((s.setDt d).setErr e) := fun b j => by simp

/-- The bytes of the record at payload offset `k`, by their indexes in the buffer (R58, R149). -/
def recordByte (b : Buf) (k : Byte) (j : Nat) : Byte := readByte s b (5 + k.toNat + j)

/-- R149: `GET.DT` of a record inside the payload. -/
theorem exec_getDt_of_fieldInside {b : Buf} {k : Byte} (h : FieldInside s b k.toNat 7) :
    exec (.getDt b k) s =
      .next ((s.setDt (decodeDateTime (recordByte s b k))).setErr
        (if badDateTime (recordByte s b k) then .bcdDigit else .none)) := by
  have hrecord : ∀ j, payloadByte s b (k.toNat + j) = recordByte s b k j :=
    fun j => congrArg (readByte s b) (Nat.add_assoc 5 k.toNat j).symm
  rw [exec, execGetDt, guarded_window_of_inside h, completeFlagged_eq]
  simp only [hrecord]

end Operation

/-- Settles O47: the header's and the trailer's bytes are read big-endian, the most significant first. -/
theorem envelopeFieldsResult : Obligations.EnvelopeFieldsResult := by
  unfold Obligations.EnvelopeFieldsResult
  intro b s h
  refine ⟨?_, ?_, ?_⟩
  · exact exists_returned (guarded_packet_of_readable h _) (be32_toNat ..)
  · exact exists_returned (guarded_packet_of_readable h _) (zeroExtended_byte_toNat _)
  · exact exists_returned (guarded_packet_of_readable h _) (zeroExtended_half_toNat ..)

/-- Settles O48: the bytes of a field at offset `k` stand from index `5 + k` on, the most significant first. -/
theorem payloadFieldsResult : Obligations.PayloadFieldsResult := by
  unfold Obligations.PayloadFieldsResult
  intro b k s
  refine ⟨fun h => ?_, fun h => ?_, fun h => ?_⟩
  · exact exists_returned (guarded_window_of_inside h _) (zeroExtended_byte_toNat _)
  · exact exists_returned (guarded_window_of_inside h _) (payloadHalf_eq s b _ ▸ zeroExtended_half_toNat ..)
  · exact exists_returned (guarded_window_of_inside h _) (payloadWord_eq s b _ ▸ be32_toNat ..)

/-- Settles O50: the registers and the flag come from the two digits of each byte of the record but the weekday's. -/
theorem getDtResult : Obligations.GetDtResult := by
  unfold Obligations.GetDtResult
  intro b k s h
  refine ⟨_, exec_getDt_of_fieldInside s h, setDt_setErr_eq_update s _ _, setDt_setErr_keepsBytes s _ _, ?_⟩
  rw [State.setErr_dt, State.setDt_dt, State.setErr_err]
  refine ⟨decodeDateTime_toNat _, le_decodeDateTime_year _, ?_, ?_⟩
  · exact (ite_eq_or_eq ..).symm
  · exact (flagged_eq_iff (by decide)).trans (badDateTime_iff _)

end Sys2Proof.Machine
end

section
/-! PROOFS. No instruction reads `V[b]` (spec/44_accessors.md R150; spec/10_state.md R16): changing the flag before an
instruction changes nothing after it but the flag, and not even that where the instruction writes it. -/

namespace Sys2Proof.Machine

/-- `op` does not read `V[b]`: with another flag before it, it goes on to the same state but for what `after` says of the
flag. -/
def FlagUnread (b : Buf) (after : Bool → State → State) (op : State → Result) : Prop :=
  ∀ s t v, op s = .next t → op (s.setValid b v) = .next (after v t)

/-- The earlier flag is still there. -/
def flagKept (b : Buf) (v : Bool) (t : State) : State := t.setValid b v

/-- R10, R183: the earlier flag is gone when the row `e` names it and there was no fault, and otherwise still there. -/
def flagAfter (e : Effects) (b : Buf) (v : Bool) (t : State) : State :=
  if b ∈ e.valid ∧ t.err.isFault = false then t else flagKept b v t

section Updates

variable (s : State) (b : Buf) (v : Bool)

theorem flagAfter_eq_self {e : Effects} {t : State} (hvalid : b ∈ e.valid) (hdone : t.err.isFault = false) :
    flagAfter e b v t = t := if_pos ⟨hvalid, hdone⟩

theorem flagAfter_eq_flagKept {e : Effects} {t : State} (h : b ∉ e.valid ∨ t.err.isFault = true) :
    flagAfter e b v t = flagKept b v t :=
  if_neg fun ⟨hvalid, hdone⟩ => h.elim (· hvalid) fun hfault => Bool.false_ne_true (hdone.symm.trans hfault)

/-! The flag and any other part of the state may be written in either order. -/

theorem State.setR_setValid (x : Word) : (s.setValid b v).setR x = (s.setR x).setValid b v := by cases b <;> rfl

theorem State.setDt_setValid (d : DateTime) : (s.setValid b v).setDt d = (s.setDt d).setValid b v := by cases b <;> rfl

theorem State.setAcc_setValid (x : Half) : (s.setValid b v).setAcc x = (s.setAcc x).setValid b v := by cases b <;> rfl

theorem State.setErr_setValid (c : ErrCode) : (s.setValid b v).setErr c = (s.setErr c).setValid b v := by cases b <;> rfl

theorem State.setValid_setValid_same (w : Bool) : (s.setValid b v).setValid b w = s.setValid b w := by
  cases b <;> rfl

theorem State.setValid_setValid_other {b' : Buf} (h : b ≠ b') (w : Bool) :
    (s.setValid b v).setValid b' w = (s.setValid b' w).setValid b v := by
  cases b with
  | tx =>
    cases b' with
    | tx => exact absurd rfl h
    | rx => rfl
  | rx =>
    cases b' with
    | tx => rfl
    | rx => exact absurd rfl h

/-! The checks and the payload fields read lengths, bytes and `SEALED`, and no flag. -/

@[simp] theorem checkPacket_setValid (b' : Buf) : checkPacket (s.setValid b v) b' = checkPacket s b' :=
  checkPacket_congr (by simp) (by simp)

@[simp] theorem checkWindow_setValid (b' : Buf) (k w : Nat) :
    checkWindow (s.setValid b v) b' k w = checkWindow s b' k w :=
  checkWindow_congr (by simp) (by simp) k w

@[simp] theorem checkIndex_setValid (b' : Buf) (i : Byte) : checkIndex (s.setValid b v) b' i = checkIndex s b' i :=
  checkIndex_congr (by simp) i

@[simp] theorem noOpenPacket_setValid : noOpenPacket (s.setValid b v) = noOpenPacket s := by
  simp [noOpenPacket]

@[simp] theorem packetValid_setValid (b' : Buf) : packetValid (s.setValid b v) b' = packetValid s b' := by
  simp [packetValid]

@[simp] theorem payloadByte_setValid (b' : Buf) (k : Nat) :
    payloadByte (s.setValid b v) b' k = payloadByte s b' k := readByte_setValid ..

end Updates

theorem checkPacket_isFault {s : State} {b : Buf} {c : ErrCode} (h : checkPacket s b = some c) : c.isFault = true := by
  rcases checkPacket_eq_some.mp h with ⟨-, -, rfl⟩ | ⟨-, -, rfl⟩ <;> rfl

theorem checkWindow_isFault {s : State} {b : Buf} {k w : Nat} {c : ErrCode} (h : checkWindow s b k w = some c) :
    c.isFault = true := by
  rcases checkWindow_eq_some.mp h with hpacket | ⟨-, -, rfl⟩
  · exact checkPacket_isFault hpacket
  · rfl

namespace FlagUnread

variable {b : Buf} {after : Bool → State → State} {op op' : State → Result} {e : Effects}

/-- An operation that always goes on, by its effect. -/
theorem of_next {effect : State → State} (h : ∀ s v, effect (s.setValid b v) = after v (effect s)) :
    FlagUnread b after fun s => .next (effect s) := by
  intro s t v hnext
  cases hnext
  exact congrArg Host.Outcome.next (h s v)

/-- A stop is no next state. -/
theorem stop (f : Fault) : FlagUnread b after fun _ => .fault f := by
  intro s t v h
  cases h

/-- A choice by a condition that does not read the flag. -/
theorem ite {c : State → Prop} [∀ s, Decidable (c s)] (hc : ∀ s v, c (s.setValid b v) ↔ c s)
    (hthen : FlagUnread b after op) (helse : FlagUnread b after op') :
    FlagUnread b after fun s => if c s then op s else op' s := by
  intro s t v h
  simp only [hc] at h ⊢
  split at h
  · exact (if_pos ‹_›).trans (hthen s t v h)
  · exact (if_neg ‹_›).trans (helse s t v h)

/-- A refusal keeps the flag (R183). -/
theorem refusal {c : ErrCode} (hc : c.isFault = true) : FlagUnread b (flagAfter e b) (raise c) :=
  of_next fun s v => (s.setErr_setValid b v c).trans (flagAfter_eq_flagKept b v (.inr hc)).symm

/-- An effect outside the flag. -/
theorem of_next_kept (hb : b ∉ e.valid) {effect : State → State}
    (h : ∀ s v, effect (s.setValid b v) = (effect s).setValid b v) :
    FlagUnread b (flagAfter e b) fun s => .next (effect s) :=
  of_next fun s v => (h s v).trans (flagAfter_eq_flagKept b v (.inl hb)).symm

/-- An operation behind a check that finds faults only and does not read the flag. -/
theorem guarded {found : State → Option ErrCode} (hfound : ∀ s v, found (s.setValid b v) = found s)
    (hfault : ∀ {s c}, found s = some c → c.isFault = true) (hbody : FlagUnread b (flagAfter e b) op) :
    FlagUnread b (flagAfter e b) fun s => Machine.guarded (found s) s (op s) := by
  intro s t v h
  simp only [hfound] at h ⊢
  cases hs : found s with
  | some c => exact refusal (hfault hs) s t v (by rwa [hs] at h)
  | none => exact hbody s t v (by rwa [hs] at h)

/-- A value that does not depend on the flag is returned (R11). -/
theorem returned (hb : b ∉ e.valid) {value : State → Word} (hvalue : ∀ s v, value (s.setValid b v) = value s) :
    FlagUnread b (flagAfter e b) fun s => returnValue (value s) s :=
  of_next_kept hb fun s v => by rw [hvalue, State.setR_setValid, State.setErr_setValid]

/-- A value read from a packet (R140, R150). -/
theorem packet_returned (hb : b ∉ e.valid) {b' : Buf} {value : State → Word}
    (hvalue : ∀ s v, value (s.setValid b v) = value s) :
    FlagUnread b (flagAfter e b) fun s => Machine.guarded (checkPacket s b') s (returnValue (value s) s) :=
  guarded (fun s v => checkPacket_setValid s b v b') checkPacket_isFault (returned hb hvalue)

/-- A value read from the payload of a packet (R140, R150). -/
theorem window_returned (hb : b ∉ e.valid) {b' : Buf} {k w : Nat} {value : State → Word}
    (hvalue : ∀ s v, value (s.setValid b v) = value s) :
    FlagUnread b (flagAfter e b) fun s => Machine.guarded (checkWindow s b' k w) s (returnValue (value s) s) :=
  guarded (fun s v => checkWindow_setValid s b v b' k w) checkWindow_isFault (returned hb hvalue)

/-- A sequence whose first part keeps the flag. -/
theorem andThen (h : FlagUnread b (flagKept b) op) (h' : FlagUnread b after op') :
    FlagUnread b after fun s => Machine.andThen (op s) op' := by
  intro s t v hnext
  obtain ⟨u, hop, hop'⟩ := andThen_eq_next.mp hnext
  exact andThen_eq_next.mpr ⟨_, h s u v hop, h' u t v hop'⟩

section Operations

variable (b)

theorem execBcdDec (n : Byte) (x : Word) : FlagUnread b (flagAfter (effects (.bcdDec n x)) b) (execBcdDec n x) :=
  ite (fun _ _ => Iff.rfl) (refusal rfl)
    (of_next_kept List.not_mem_nil fun s v => by rw [State.setR_setValid, State.setErr_setValid])

theorem execLenResolve (c : Byte) : FlagUnread b (flagAfter (effects (.lenResolve c)) b) (execLenResolve c) := by
  intro s t v h
  unfold Machine.execLenResolve at h ⊢
  rw [State.setValid_cfg]
  split at h
  · exact returned (value := fun _ => _) List.not_mem_nil (fun _ _ => rfl) s t v h
  · exact refusal rfl s t v h

theorem execBufRd (b' : Buf) (i : Byte) : FlagUnread b (flagAfter (effects (.bufRd b' i)) b) (execBufRd b' i) :=
  ite (fun s v => by rw [State.setValid_len]) (refusal rfl)
    (returned List.not_mem_nil fun s v => by rw [readByte_setValid])

theorem execGetDt (b' : Buf) (k : Byte) : FlagUnread b (flagAfter (effects (.getDt b' k)) b) (execGetDt b' k) :=
  guarded (fun s v => checkWindow_setValid s b v b' _ 7) checkWindow_isFault
    (of_next_kept List.not_mem_nil fun s v => by
      simp only [payloadByte_setValid, State.setDt_setValid, State.setErr_setValid])

/-- R126: the check writes the flag of its own packet from the bytes, and keeps the other packet's. -/
theorem execPktCheck (b' : Buf) : FlagUnread b (flagAfter (effects (.pktCheck b')) b) (execPktCheck b') := by
  refine guarded (fun s v => checkPacket_setValid s b v b') checkPacket_isFault ?_
  by_cases hb : b = b'
  · subst hb
    refine of_next fun s v => ?_
    rw [packetValid_setValid, State.setValid_setValid_same]
    exact (flagAfter_eq_self b v (.head _) (by cases packetValid s b <;> rfl)).symm
  · refine of_next_kept (by simpa [effects] using hb) fun s v => ?_
    rw [packetValid_setValid, State.setValid_setValid_other s b v hb, State.setR_setValid, State.setErr_setValid]

theorem startPacket (c : Byte) (a : Word) : FlagUnread b (flagAfter (effects (.frmHdr c a)) b) (startPacket c a) := by
  rw [funext (startPacket_eq c a)]
  cases b <;> exact of_next fun s v => rfl

theorem execFrmPay (x : Byte) : FlagUnread b (flagAfter (effects (.frmPay x)) b) (execFrmPay x) := by
  rw [funext (execFrmPay_eq x)]
  refine ite (fun s v => by rw [noOpenPacket_setValid]) (refusal rfl)
    (ite (fun s v => by rw [State.setValid_len]) (refusal rfl) ?_)
  cases b <;> exact of_next fun s v => rfl

theorem sealPacket : FlagUnread b (flagAfter (effects .frmSeal) b) sealPacket := by
  rw [funext sealPacket_eq]
  refine ite (fun s v => by rw [noOpenPacket_setValid]) (refusal rfl)
    (ite (fun s v => by rw [State.setValid_len]) ?_ (stop _))
  cases b <;> exact of_next fun s v => rfl

theorem clearReply : FlagUnread b (flagAfter (effects .dfrClr) b) clearReply := by
  cases b <;> exact of_next fun s v => rfl

theorem pushReply (x : Byte) : FlagUnread b (flagAfter (effects (.dfrPush x)) b) (pushReply x) := by
  rw [funext (pushReply_eq x)]
  refine ite (fun s v => by rw [State.setValid_len]) (refusal rfl) ?_
  cases b <;> exact of_next fun s v => rfl

/-- R10, R150: what each of the 22 operations leaves of an earlier flag. -/
theorem exec {i : Instr} (hop : (effects i).operation = true) : FlagUnread b (flagAfter (effects i) b) (exec i) := by
  cases i with
  | bcdDec n x => exact execBcdDec b n x
  | bcdDec8 x =>
    exact of_next_kept List.not_mem_nil fun s v => by rw [State.setR_setValid, State.setErr_setValid]
  | crcClr =>
    exact of_next_kept List.not_mem_nil fun s v => by
      rw [State.setValid_cfg, State.setValid_variant, State.setAcc_setValid, State.setErr_setValid]
  | crcUpd x =>
    exact of_next_kept List.not_mem_nil fun s v => by
      rw [State.setValid_cfg, State.setValid_variant, State.setValid_acc, State.setAcc_setValid, State.setErr_setValid]
  | crcGet => exact returned List.not_mem_nil fun s v => by simp
  | crcFrame b' => exact packet_returned List.not_mem_nil fun s v => by simp
  | lenResolve c => exact execLenResolve b c
  | frmHdr c a => exact startPacket b c a
  | frmPay x => exact execFrmPay b x
  | frmSeal => exact sealPacket b
  | dfrClr => exact clearReply b
  | dfrPush x => exact pushReply b x
  | pktCheck b' => exact execPktCheck b b'
  | bufRd b' i => exact execBufRd b b' i
  | getAddr b' => exact packet_returned List.not_mem_nil fun s v => by simp [packetAddress]
  | getCmd b' => exact packet_returned List.not_mem_nil fun s v => by simp [packetCommand]
  | getCrc b' => exact packet_returned List.not_mem_nil fun s v => by simp
  | getB b' k => exact window_returned List.not_mem_nil fun s v => by simp
  | getH b' k => exact window_returned List.not_mem_nil fun s v => by simp [payloadHalf]
  | getT b' k => exact window_returned List.not_mem_nil fun s v => by simp [payloadTriple]
  | getW b' k => exact window_returned List.not_mem_nil fun s v => by simp [payloadWord]
  | getDt b' k => exact execGetDt b b' k
  | _ => cases hop

end Operations

/-- R125: collecting a reply keeps the request's flag. -/
theorem pushAll (xs : List Byte) : FlagUnread .tx (flagKept .tx) (pushAll xs) := by
  induction xs with
  | nil => exact of_next fun _ _ => rfl
  | cons x xs ih => exact andThen (pushReply .tx x) ih

theorem receiveReply (c : Command) (a : Word) (p : List Byte) (x : Half) :
    FlagUnread .tx (flagKept .tx) (receiveReply c a p x) := fun s =>
  andThen (clearReply .tx) (pushAll (replyBytes s.cfg c a p x)) s

end FlagUnread

/-- Settles O20: the frame of the flag for each operation; a request frame ends in a packet that does not hold the earlier
`V[TX]`, and a reply frame begins with one that does not hold the earlier `V[RX]`. -/
theorem validFlagIsNeverRead : Obligations.ValidFlagIsNeverRead := by
  unfold Obligations.ValidFlagIsNeverRead
  intro i s t b v h
  refine ⟨fun hop hvalid hdone => ?_, fun hop hkept => ?_, ?_, ?_⟩
  · rw [FlagUnread.exec b hop s t v h, flagAfter_eq_self b v hvalid hdone]
  · rw [FlagUnread.exec b hop s t v h, flagAfter_eq_flagKept b v hkept, flagKept]
  · rintro c a rfl
    rw [exec_request, buildRequest_eq] at h ⊢
    cases h
    cases b <;> rfl
  · rintro c a p k rfl
    rw [exec_reply] at h ⊢
    cases b with
    | tx => exact FlagUnread.receiveReply c a p k s t v h
    | rx => exact h

end Sys2Proof.Machine
end

section
/-! PROOFS. The fields of a layout (spec/45_payload_fields.md R160 to R170): each lies inside a reply of the ROM's length, so
that reading it meets no fault, and a transaction extracts them only from a reply it found valid
(spec/70_reset_and_hazards.md R232). -/

namespace Sys2Proof.Machine

section Fields

variable {s t u : State} {f : PayloadField} {fs : List PayloadField} {c : Command}

/-- R160: how many payload bytes a sequence reads. -/
def FieldRead.width : FieldRead → Nat
  | .dateTime => 7
  | .byte => 1
  | .bcd4 => 2
  | .bcd6 => 3
  | .bcd8 => 4

/-- R161 to R168: every row of a layout ends inside the payload that the ROM gives its command. -/
theorem layout_offset_add_width_le (h : f ∈ layout c) : f.offset + f.read.width ≤ replyPayload c := by
  revert f
  cases c <;> decide

/-- The field lies inside the reply, read by the sequence of its row (R140). -/
def PayloadField.InReply (f : PayloadField) (s : State) : Prop :=
  FieldInside s .rx (BitVec.ofNat 8 f.offset).toNat f.read.width

/-- R170: every field of a command's layout lies inside a reply at least as long as the ROM says. -/
theorem inReply_of_mem_layout (hlen : replyPayload c + 7 ≤ s.len .rx) (h : f ∈ layout c) : f.InReply s := by
  have hend := layout_offset_add_width_le h
  have hmax := replyPayload_le c
  have hoffset : (BitVec.ofNat 8 f.offset).toNat = f.offset := Nat.mod_eq_of_lt (by omega)
  refine ⟨⟨nofun, by omega⟩, ?_⟩
  rw [hoffset]
  omega

/-- A read that met no fault and left the reply as it was (R38, R183). -/
structure ReadsReply (s t : State) : Prop where
  noFault : t.err.isFault = false
  reply : t.rx = s.rx

/-- Where a field lies depends on nothing but the reply. -/
theorem PayloadField.InReply.of_rx_eq (h : f.InReply s) (hrx : t.rx = s.rx) : f.InReply t := by
  have hlen : t.len .rx = s.len .rx := congrArg (fun p => p.len.val) hrx
  obtain ⟨⟨-, hseven⟩, hinside⟩ := h
  exact ⟨⟨nofun, hlen ▸ hseven⟩, hlen ▸ hinside⟩

/-- A flagged digit is no fault (R184). -/
theorem flaggedDigit_isFault (d : Bool) : (if d then ErrCode.bcdDigit else .none).isFault = false := by
  cases d <;> rfl

/-- R161: a date-time record is delivered beside the reply, flagged at most. -/
theorem readsReply_setDt (s : State) (x : DateTime) (d : Bool) :
    ReadsReply s ((s.setDt x).setErr (if d then .bcdDigit else .none)) :=
  ⟨flaggedDigit_isFault d, rfl⟩

/-- R68: an accessor that completes, then `BCD.DEC` of what it read, meet no fault and leave the reply as it was. -/
theorem twoStep_bcdDec_readsReply {i : Instr} {n : Byte} {v : Word} (hread : exec i s = returnValue v s)
    (hn : n.toNat ≤ 8) : ∃ u, twoStep i (fun t => .bcdDec n t.r) s = .next u ∧ ReadsReply s u := by
  have hdecode : twoStep i (fun t => .bcdDec n t.r) s = exec (.bcdDec n v) ((s.setR v).setErr .none) := by
    rw [twoStep, hread]
    rfl
  rw [hdecode, exec_bcdDec_of_le hn]
  exact ⟨_, rfl, flaggedDigit_isFault _, rfl⟩

/-- R160: the sequence that reads a field inside the reply meets no fault and leaves the reply as it was. -/
theorem readField_of_inReply (h : f.InReply s) : ∃ u, readField f s = .next u ∧ ReadsReply s u := by
  obtain ⟨k, w, q, read⟩ := f
  cases read with
  | dateTime => exact ⟨_, exec_getDt_of_fieldInside s h, readsReply_setDt ..⟩
  | byte => exact ⟨_, guarded_window_of_inside h _, rfl, rfl⟩
  | bcd4 => exact twoStep_bcdDec_readsReply (guarded_window_of_inside h _) (by decide)
  | bcd6 => exact twoStep_bcdDec_readsReply (guarded_window_of_inside h _) (by decide)
  | bcd8 => exact twoStep_bcdDec_readsReply (guarded_window_of_inside h _) (by decide)

/-- The results are those of the fields, all of them and in order, none with a fault. -/
def ResultsOf (fs : List PayloadField) (out : List FieldResult) : Prop :=
  out.map FieldResult.quantity = fs.map PayloadField.quantity ∧ ∀ x ∈ out, x.err.isFault = false

/-- R160, R229: fields inside the reply are all read, one after another, and the reply stays as it was. -/
theorem readFields_of_inReply (h : ∀ f ∈ fs, f.InReply s) :
    ∃ out w, readFields fs s = .next (out, w) ∧ ResultsOf fs out ∧ w.rx = s.rx := by
  induction fs generalizing s with
  | nil => exact ⟨[], s, readFields_nil s, ⟨rfl, nofun⟩, rfl⟩
  | cons f fs ih =>
    obtain ⟨hf, hfs⟩ := List.forall_mem_cons.mp h
    obtain ⟨t, hread, hfault, hreply⟩ := readField_of_inReply hf
    obtain ⟨out, w, hrest, ⟨hquantities, hfaults⟩, hreply'⟩ := ih fun g hg => (hfs g hg).of_rx_eq hreply
    exact ⟨_, w, readFields_cons hread hrest,
      ⟨congrArg (f.quantity :: ·) hquantities, List.forall_mem_cons.mpr ⟨hfault, hfaults⟩⟩, hreply'.trans hreply⟩

/-- `RXB` holds a reply found valid, of `n` bytes at least. -/
structure HoldsValidReply (n : Nat) (s : State) : Prop where
  valid : s.rx.valid = true
  len : n ≤ s.len .rx

/-- R232: from a valid reply of the ROM's length the host extracts every field of the layout. -/
theorem extractReply_of_holdsValidReply (h : HoldsValidReply (replyPayload c + 7) s) :
    ∃ out w, extractReply c s = .next (out, w) ∧ ResultsOf (layout c) out ∧ w.rx = s.rx := by
  rw [extractReply_checked c h.valid]
  exact readFields_of_inReply fun f => inReply_of_mem_layout h.len

/-- R170: with `V[RX]` clear the host extracts nothing. -/
theorem extractReply_unchecked (c : Command) (h : s.rx.valid = false) : extractReply c s = .next ([], s) := by
  rw [extractReply, h]
  rfl

/-- R53, R110: a reply frame of the ROM's payload length leaves a reply of that length. -/
theorem exec_reply_len {a : Word} {p : List Byte} {k : Half} (hp : p.length = replyPayload c)
    (h : exec (.reply c a p k) s = .next t) : t.len .rx = replyPayload c + 7 := by
  have hfit : p.length ≤ 16 := hp ▸ replyPayload_le c
  rw [exec_reply, receiveReply_eq s c a k hfit] at h
  cases h
  rw [received_len s (replyBytes_length_le s.cfg c a k hfit), Laws.replyBytes_length, hp]

/-- R126: a reply for which `PKT.CHECK` gives 1 is left valid, with the length it had. -/
theorem holdsValidReply_of_pktCheck (hlen : 7 ≤ s.len .rx) (h : exec (.pktCheck .rx) s = .next u) (hr : u.r = 1) :
    HoldsValidReply (s.len .rx) u := by
  rw [exec_pktCheck_of_readable (b := .rx) ⟨nofun, hlen⟩] at h
  cases h
  refine ⟨?_, Nat.le_refl _⟩
  cases hvalid : packetValid s .rx with
  | true => rfl
  | false => simp [hvalid] at hr

end Fields

section Transactions

variable {ch : Channel} {n : Nat} {c : Byte} {cmd : Command} {a : Word} {s t : State} {rep : TxReport}

/-- R219: collecting a reply ends with the bytes asked for, in a timeout or with the channel closed. -/
theorem collectReply_cases {o : Option TxOutcome} {rs : List ReadResult} (h : collectReply n rs s = .next (o, t)) :
    (o = none ∧ n ≤ t.len .rx) ∨ o = some .replyTimeout ∨ o = some .channelClosed := by
  induction rs generalizing s with
  | nil =>
    rw [collectReply] at h
    cases h
    by_cases hn : n ≤ t.len .rx
    · exact .inl ⟨if_pos hn, hn⟩
    · exact .inr (.inl (if_neg hn))
  | cons r rs ih =>
    by_cases hn : n ≤ s.len .rx
    · cases (if_pos hn).symm.trans h
      exact .inl ⟨rfl, hn⟩
    · have h := (if_neg hn).symm.trans h
      match r with
      | .data [] => cases h; exact .inr (.inl rfl)
      | .data (x :: xs) =>
        obtain ⟨s', -, hrest⟩ := andThen_eq_next.mp h
        exact ih hrest
      | .timeout => cases h; exact .inr (.inl rfl)
      | .endOfStream => cases h; exact .inr (.inr rfl)

/-- R222: the check of a readable reply ends validated only when it left the reply valid. -/
theorem checkReply_validated {bytes : List Byte} (hlen : 7 ≤ s.len .rx) (h : checkReply ch bytes s = .next rep)
    (hvalidated : rep.outcome = .validated) : HoldsValidReply (s.len .rx) rep.block := by
  obtain ⟨t, hcheck, hend⟩ := andThen_eq_next.mp h
  cases hend
  by_cases hr : t.r = 1
  · exact holdsValidReply_of_pktCheck hlen hcheck hr
  · cases (if_neg hr).symm.trans hvalidated

/-- R218 to R222: a request written ends validated only with a valid reply of the length asked for. -/
theorem writeAndRead_validated (hn : 7 ≤ n) (h : writeAndRead ch n s = .next rep)
    (hvalidated : rep.outcome = .validated) : HoldsValidReply n rep.block := by
  obtain ⟨p, -, h⟩ := andThen_eq_next.mp h
  by_cases hwrite : ch.writeSucceeds = false
  · rw [if_pos hwrite] at h
    cases h
    cases hvalidated
  · rw [if_neg hwrite] at h
    obtain ⟨t, -, h⟩ := andThen_eq_next.mp h
    obtain ⟨⟨o, u⟩, hcollect, h⟩ := andThen_eq_next.mp h
    rcases collectReply_cases hcollect with ⟨rfl, hlen⟩ | rfl | rfl
    · obtain ⟨hvalid, hkept⟩ := checkReply_validated (hn.trans hlen) h hvalidated
      exact ⟨hvalid, hlen.trans hkept⟩
    · cases h
      cases hvalidated
    · cases h
      cases hvalidated

/-- R111: `LEN.RESOLVE` of a byte that some command has as its code reads that command's row of the ROM. -/
theorem exec_lenResolve_of_commandOf (h : commandOf s.cfg c = some cmd) :
    exec (.lenResolve c) s = .next ((s.setR (BitVec.ofNat 32 (replyPayload cmd))).setErr .none) := by
  rw [exec, execLenResolve, h]
  rfl

/-- R215 to R222: a transaction ends validated only with a valid reply of the length its command resolves to. -/
theorem executeTransaction_validated (hcmd : commandOf s.cfg c = some cmd)
    (h : executeTransaction ch c a s = .next rep) (hvalidated : rep.outcome = .validated) :
    HoldsValidReply (replyPayload cmd + 7) rep.block := by
  obtain ⟨s1, hrequest, h⟩ := andThen_eq_next.mp h
  cases hrequest.symm.trans (runPseudo_build s c a [])
  by_cases hattached : ch.attached = false
  · rw [if_pos hattached] at h
    cases h
    cases hvalidated
  · have hresolve := exec_lenResolve_of_commandOf (s := s.sealed (builtFrame s c a [])) hcmd
    have hvalue : (BitVec.ofNat 32 (replyPayload cmd)).toNat = replyPayload cmd :=
      Nat.mod_eq_of_lt ((replyPayload_le cmd).trans_lt (by decide))
    rw [if_neg hattached, hresolve, andThen_next, if_neg (fun herr => herr rfl), State.setErr_r, State.setR_r,
      hvalue] at h
    exact writeAndRead_validated (Nat.le_add_left 7 _) h hvalidated

/-- R232: a transaction that ends validated extracts the layout of its command, any other delivers no field. -/
theorem transactAndExtract_cases {d : Delivery} (h : transactAndExtract ch c a s = .next d) :
    (∃ cmd rep u, commandOf s.cfg c = some cmd ∧ executeTransaction ch c a s = .next rep ∧
        rep.outcome = .validated ∧ extractReply cmd rep.block = .next (d.fields, u) ∧
        d.report = { rep with block := u }) ∨
      (d.fields = [] ∧ (d.report.outcome = .validated → commandOf s.cfg c = none)) := by
  obtain ⟨rep, hrun, h⟩ := andThen_eq_next.mp h
  cases hcmd : commandOf s.cfg c with
  | none =>
    rw [hcmd] at h
    cases h
    exact .inr ⟨rfl, fun _ => rfl⟩
  | some cmd =>
    rw [hcmd] at h
    by_cases hvalidated : rep.outcome = .validated
    · obtain ⟨⟨out, u⟩, hextract, hend⟩ := andThen_eq_next.mp ((if_pos hvalidated).symm.trans h)
      cases hend
      exact .inl ⟨cmd, rep, u, rfl, hrun, hvalidated, hextract, rfl⟩
    · cases (if_neg hvalidated).symm.trans h
      exact .inr ⟨rfl, fun h => absurd h hvalidated⟩

end Transactions

/-- Settles O58: a layout ends inside the payload the ROM gives its command, and whatever is found valid was that long. -/
theorem layoutFieldsAreReadable : Obligations.LayoutFieldsAreReadable := by
  unfold Obligations.LayoutFieldsAreReadable
  refine ⟨fun c a p k s t f hp hreply hf => ?_, fun c s => extractReply_unchecked c,
    fun c a p k s t u hp hreply hcheck hr => ?_, fun ch c a s d h => ?_⟩
  · have hlen := exec_reply_len hp hreply
    obtain ⟨u, hread, hfault, -⟩ := readField_of_inReply (inReply_of_mem_layout hlen.ge hf)
    exact ⟨u, hread, hfault⟩
  · have hlen := exec_reply_len hp hreply
    have hvalid := holdsValidReply_of_pktCheck (by omega) hcheck hr
    obtain ⟨out, w, hextract, ⟨hall, hfaults⟩, hkept⟩ := extractReply_of_holdsValidReply (hlen ▸ hvalid)
    exact ⟨out, w, hextract, hall, hfaults, hkept⟩
  · rcases transactAndExtract_cases h with ⟨cmd, rep, u, hcmd, hrun, hvalidated, hextract, hreport⟩ | ⟨hnone, hother⟩
    · rw [hreport]
      refine ⟨absurd hvalidated, fun cmd' _ hcmd' => ?_⟩
      cases hcmd.symm.trans hcmd'
      obtain ⟨out, w, hextract', hresults, -⟩ :=
        extractReply_of_holdsValidReply (executeTransaction_validated hcmd hrun hvalidated)
      cases hextract.symm.trans hextract'
      exact hresults
    · refine ⟨fun _ => hnone, fun cmd' hvalidated hcmd' => ?_⟩
      cases (hother hvalidated).symm.trans hcmd'

end Sys2Proof.Machine
end

section
/-! PROOFS. How an operation ends (spec/60_exceptions.md R181 to R184): refused with a code of its row, which is then the only
change, or completed with code 0 or a flagged outcome of its row. -/

namespace Sys2Proof.Machine

/-- How an operation with the row `e` ends (R183, R184). -/
inductive Reports (e : Effects) (s : State) : State → Prop where
  | refused {c : ErrCode} (hrow : c ∈ e.raises) : Reports e s (s.setErr c)
  | completed {t : State} (hcode : t.err = .none ∨ t.err ∈ e.raises) (hdone : t.err.isFault = false) : Reports e s t

theorem checkPacket_mem_packetRaises {s : State} {b : Buf} {c : ErrCode} (h : checkPacket s b = some c) :
    c ∈ packetRaises b := by
  rcases checkPacket_eq_some.mp h with ⟨rfl, -, rfl⟩ | ⟨-, -, rfl⟩
  · exact .head _
  · cases b <;> simp [packetRaises]

/-- A payload accessor names `FieldRange` behind the codes of the packet's check, and may name more (R181). -/
theorem checkWindow_mem_raises {s : State} {b : Buf} {k w : Nat} {c : ErrCode} {more : List ErrCode}
    (h : checkWindow s b k w = some c) : c ∈ packetRaises b ++ .fieldRange :: more := by
  rcases checkWindow_eq_some.mp h with hpacket | ⟨-, -, rfl⟩
  · exact List.mem_append_left _ (checkPacket_mem_packetRaises hpacket)
  · exact List.mem_append_right _ (.head _)

namespace Reports

variable {e : Effects} {s t u : State}

/-- An outcome given by what it leaves. -/
theorem of_next (h : (.next u : Result) = .next t) (hu : Reports e s u) : Reports e s t := by
  cases h
  exact hu

/-- R182: completed without error. -/
theorem success (u : State) : Reports e s (u.setErr .none) := completed (.inl rfl) rfl

/-- R184: completed with a flagged outcome of the row when `d` holds. -/
theorem flagged {c : ErrCode} (hrow : c ∈ e.raises) (hflag : c.isFault = false) (d : Bool) (u : State) :
    Reports e s (u.setErr (if d then c else .none)) := by
  cases d with
  | false => exact success u
  | true => exact completed (.inr hrow) hflag

/-- An operation behind a check that finds codes of the row only. -/
theorem of_guarded {o : Option ErrCode} (h : guarded o s (.next u) = .next t) (hfound : ∀ {c}, o = some c → c ∈ e.raises)
    (hu : Reports e s u) : Reports e s t := by
  rcases guarded_eq_next.mp h with ⟨c, hsome, rfl⟩ | ⟨-, hbody⟩
  · exact refused (hfound hsome)
  · exact of_next hbody hu

theorem execBcdDec {n : Byte} {v : Word} (h : execBcdDec n v s = .next t) : Reports (effects (.bcdDec n v)) s t := by
  unfold Machine.execBcdDec at h
  split at h
  · exact of_next h (refused (by simp [effects]))
  · exact of_next h (flagged (.head _) rfl _ _)

theorem execLenResolve {c : Byte} (h : execLenResolve c s = .next t) : Reports (effects (.lenResolve c)) s t := by
  unfold Machine.execLenResolve at h
  split at h
  · exact of_next h (success _)
  · exact of_next h (refused (.head _))

theorem execBufRd {b : Buf} {i : Byte} (h : execBufRd b i s = .next t) : Reports (effects (.bufRd b i)) s t := by
  unfold Machine.execBufRd at h
  split at h
  · exact of_next h (refused (.head _))
  · exact of_next h (success _)

theorem execFrmPay {x : Byte} (h : execFrmPay x s = .next t) : Reports (effects (.frmPay x)) s t := by
  rcases execFrmPay_cases h with ⟨-, rfl⟩ | ⟨-, -, rfl⟩ | ⟨-, -, rfl⟩
  · exact refused (.head _)
  · exact refused (by simp [effects])
  · exact success _

theorem execFrmSeal (h : execFrmSeal s = .next t) : Reports (effects .frmSeal) s t := by
  rcases execFrmSeal_cases h with ⟨-, rfl⟩ | ⟨-, -, rfl⟩
  · exact refused (.head _)
  · exact success _

theorem pushReply {x : Byte} (h : pushReply x s = .next t) : Reports (effects (.dfrPush x)) s t := by
  rw [pushReply_eq] at h
  split at h
  · exact of_next h (refused (.head _))
  · exact of_next h (success _)

theorem execPktCheck {b : Buf} (h : execPktCheck b s = .next t) : Reports (effects (.pktCheck b)) s t :=
  of_guarded h (fun hfound => List.mem_append_left _ (checkPacket_mem_packetRaises hfound))
    (flagged (by simp [effects]) rfl _ _)

theorem execGetDt {b : Buf} {k : Byte} (h : execGetDt b k s = .next t) : Reports (effects (.getDt b k)) s t :=
  of_guarded h checkWindow_mem_raises (flagged (by simp [effects]) rfl _ _)

/-- R181, R183, R184: how each of the 22 operations ends. -/
theorem exec {i : Instr} (hop : (effects i).operation = true) (h : exec i s = .next t) : Reports (effects i) s t := by
  cases i with
  | bcdDec n v => exact execBcdDec h
  | bcdDec8 x => exact of_next h (flagged (.head _) rfl _ _)
  | crcClr | crcUpd _ | crcGet | dfrClr => exact of_next h (success _)
  | crcFrame _ | getAddr _ | getCmd _ | getCrc _ => exact of_guarded h checkPacket_mem_packetRaises (success _)
  | getB _ _ | getH _ _ | getT _ _ | getW _ _ => exact of_guarded h checkWindow_mem_raises (success _)
  | lenResolve c => exact execLenResolve h
  | frmHdr c a => exact of_next ((startPacket_eq c a s).symm.trans h) (success _)
  | frmPay x => exact execFrmPay h
  | frmSeal => exact execFrmSeal h
  | dfrPush x => exact pushReply h
  | pktCheck b => exact execPktCheck h
  | bufRd b i => exact execBufRd h
  | getDt b k => exact execGetDt h
  | _ => cases hop

end Reports

theorem ErrCode.bits_le (c : ErrCode) : c.bits.toNat ≤ 10 := by
  cases c <;> decide

/-- Settles O13: an operation that completes reports no fault, so a fault comes from a refusal. -/
theorem faultChangesOnlyErr : Obligations.FaultChangesOnlyErr := by
  unfold Obligations.FaultChangesOnlyErr
  intro i s t hop h hfault
  cases Reports.exec hop h with
  | refused => rfl
  | completed _ hdone => exact absurd hfault (by simp [hdone])

/-- Settles O16: a refusal and a flagged outcome both report a code of the row. -/
theorem operationsRaiseOnlyTheirCodes : Obligations.OperationsRaiseOnlyTheirCodes := by
  unfold Obligations.OperationsRaiseOnlyTheirCodes
  intro i s t hop h
  refine ⟨?_, t.err.bits_le⟩
  cases Reports.exec hop h with
  | refused hrow => exact .inr hrow
  | completed hcode => exact hcode

end Sys2Proof.Machine
end

section
/-! PROOFS. No instruction reads `ERR` (spec/60_exceptions.md R182; spec/10_state.md R17): each writes it last, and its checks
and values look elsewhere. -/

namespace Sys2Proof.Machine

/-- `op` does the same whatever `ERR` says before it. -/
def IgnoresErr (op : State → Result) : Prop := ∀ s e, op (s.setErr e) = op s

namespace IgnoresErr

variable {op : State → Result}

theorem returnValue {value : State → Word} (hvalue : IgnoresResult value) :
    IgnoresErr fun s => Machine.returnValue (value s) s := fun s e =>
  congrArg (Machine.returnValue · s) (hvalue s s.r e)

/-- A refusal writes `ERR` over (R183), so only the check and the body count. -/
theorem guarded {found : State → Option ErrCode} (hfound : IgnoresResult found) (hbody : IgnoresErr op) :
    IgnoresErr fun s => Machine.guarded (found s) s (op s) := by
  intro s e
  have hsame : found (s.setErr e) = found s := hfound s s.r e
  simp only [hsame, hbody s e]
  cases found s <;> rfl

/-- What comes after the first operation sees the `ERR` that the first one wrote. -/
theorem andThen (h : IgnoresErr op) (next : State → Result) : IgnoresErr fun s => Machine.andThen (op s) next :=
  fun s e => congrArg (Machine.andThen · next) (h s e)

theorem execBcdDec (n : Byte) (v : Word) : IgnoresErr (execBcdDec n v) := by
  simp only [funext (execBcdDec_eq_guarded n v)]
  exact guarded (fun _ _ _ => rfl) fun _ _ => rfl

theorem execBufRd (b : Buf) (i : Byte) : IgnoresErr (execBufRd b i) := by
  simp only [funext (execBufRd_eq_guarded b i)]
  exact guarded (.checkIndex b i) (returnValue ((IgnoresResult.readByte b _).map _))

theorem startPacket (c : Byte) (a : Word) : IgnoresErr (startPacket c a) := by
  simp only [funext (startPacket_eq c a)]
  exact fun _ _ => rfl

theorem pushReply (x : Byte) : IgnoresErr (pushReply x) := by
  simp only [funext (pushReply_eq x)]
  exact fun _ _ => rfl

theorem execPktCheck (b : Buf) : IgnoresErr (execPktCheck b) := by
  refine guarded (.checkPacket b) fun s e => ?_
  have hvalid : packetValid (s.setErr e) b = packetValid s b := IgnoresResult.packetValid b s s.r e
  rw [hvalid]
  cases b <;> rfl

theorem execGetDt (b : Buf) (k : Byte) : IgnoresErr (execGetDt b k) := by
  refine guarded (.checkWindow b _ 7) fun s e => ?_
  have hrecord : ∀ j, payloadByte (s.setErr e) b j = payloadByte s b j :=
    fun j => IgnoresResult.payloadByte b j s s.r e
  simp only [hrecord]
  rfl

theorem buildRequest (c : Command) (a : Word) : IgnoresErr (buildRequest c a) :=
  andThen (op := fun s => Machine.startPacket (s.cfg.code c) a s) (fun s e => startPacket _ a s e) sealPacket

theorem receiveReply (c : Command) (a : Word) (p : List Byte) (x : Half) : IgnoresErr (receiveReply c a p x) :=
  fun _ _ => rfl

/-- R17, R182: no instruction reads `ERR`. -/
theorem exec (i : Instr) : IgnoresErr (exec i) := by
  cases i with
  | bcdDec n v => exact execBcdDec n v
  | bcdDec8 _ | crcClr | crcUpd _ | crcGet | lenResolve _ | dfrClr => exact fun _ _ => rfl
  | crcFrame b => exact guarded (.checkPacket b) (returnValue ((IgnoresResult.recomputedTrailer b).map _))
  | frmHdr c a => exact startPacket c a
  | frmPay x => exact fun s e => exec_frmPay_setErr s x
  | frmSeal => exact fun s e => exec_frmSeal_setErr s
  | dfrPush x => exact pushReply x
  | pktCheck b => exact execPktCheck b
  | bufRd b i => exact execBufRd b i
  | getAddr b => exact guarded (.checkPacket b) (returnValue (.packetAddress b))
  | getCmd b => exact guarded (.checkPacket b) (returnValue ((IgnoresResult.readByte b addrBytes).map _))
  | getCrc b => exact guarded (.checkPacket b) (returnValue ((IgnoresResult.packetTrailer b).map _))
  | getB b k => exact guarded (.checkWindow b _ 1) (returnValue ((IgnoresResult.payloadByte b _).map _))
  | getH b k => exact guarded (.checkWindow b _ 2) (returnValue ((IgnoresResult.payloadHalf b _).map _))
  | getT b k => exact guarded (.checkWindow b _ 3) (returnValue ((IgnoresResult.payloadTriple b _).map _))
  | getW b k => exact guarded (.checkWindow b _ 4) (returnValue (.payloadWord b _))
  | getDt b k => exact execGetDt b k
  | frameReqReadTime a | frameReqReadPower a | frameReqReadCounters a | frameReqReadBattery a | frameReqReadTariffs a
  | frameReqReadTariff a | frameReqReadUip a | frameReqReadLineParams a => exact buildRequest _ a
  | frameRepReadTime a p x | frameRepReadPower a p x | frameRepReadCounters a p x | frameRepReadBattery a p x
  | frameRepReadTariffs a p x | frameRepReadTariff a p x | frameRepReadUip a p x | frameRepReadLineParams a p x =>
    intro s e
    simp only [Machine.exec]
    exact receiveReply _ a p x s e

end IgnoresErr

/-- Settles O14, by instruction. -/
theorem earlierErrIsNeverRead : Obligations.EarlierErrIsNeverRead := by
  unfold Obligations.EarlierErrIsNeverRead
  exact IgnoresErr.exec

end Sys2Proof.Machine
end

section
/-! PROOFS. From every state of the invariants every instruction is accepted (spec/60_exceptions.md R183, R203): the one store
that may not fit is the trailer's, and R24 leaves room for it. -/

namespace Sys2Proof.Machine

/-- The outcome is a next state. -/
def Accepted (o : Result) : Prop := ∃ t, o = .next t

namespace Accepted

variable {s : State}

/-- A refusal is a next state too (R183). -/
theorem guarded (o : Option ErrCode) (s u : State) : Accepted (guarded o s (.next u)) := by
  cases o with
  | none => exact ⟨_, rfl⟩
  | some e => exact ⟨_, rfl⟩

/-- A sequence is accepted when its first part is, and the rest from the state that leaves. -/
theorem andThen {o : Result} {next : State → Result} (h : Accepted o) (hnext : ∀ u, o = .next u → Accepted (next u)) :
    Accepted (andThen o next) := by
  obtain ⟨u, rfl⟩ := h
  exact hnext u rfl

theorem execBcdDec (n : Byte) (v : Word) (s : State) : Accepted (execBcdDec n v s) := by
  rw [execBcdDec_eq_guarded]
  exact guarded ..

theorem execBufRd (b : Buf) (i : Byte) (s : State) : Accepted (execBufRd b i s) := by
  rw [execBufRd_eq_guarded]
  exact guarded ..

theorem execLenResolve (c : Byte) (s : State) : Accepted (execLenResolve c s) := by
  unfold Machine.execLenResolve
  split <;> exact ⟨_, rfl⟩

theorem startPacket (c : Byte) (a : Word) (s : State) : Accepted (startPacket c a s) := ⟨_, startPacket_eq c a s⟩

theorem execFrmPay (x : Byte) (s : State) : Accepted (execFrmPay x s) := by
  rw [execFrmPay_eq]
  split
  · exact ⟨_, rfl⟩
  · split <;> exact ⟨_, rfl⟩

/-- R24, R123: an open packet has room for its trailer. -/
theorem sealPacket (h : Inv s) : Accepted (sealPacket s) := by
  rw [sealPacket_eq]
  split
  · exact ⟨_, rfl⟩
  · next hopen =>
    obtain ⟨-, -, hhigh⟩ := h.open_len (Bool.eq_false_of_not_eq_true hopen)
    rw [if_pos (show s.len .tx + 2 ≤ frameMax from Nat.add_le_add_right hhigh 2)]
    exact ⟨_, rfl⟩

theorem pushReply (x : Byte) (s : State) : Accepted (pushReply x s) := by
  rw [pushReply_eq]
  split <;> exact ⟨_, rfl⟩

theorem pushAll (xs : List Byte) (s : State) : Accepted (pushAll xs s) := by
  induction xs generalizing s with
  | nil => exact ⟨s, rfl⟩
  | cons x xs ih => exact andThen (pushReply x s) fun u _ => ih u

/-- R68: the header opens a packet of the invariants, which can be sealed. -/
theorem buildRequest (h : Inv s) (c : Command) (a : Word) : Accepted (buildRequest c a s) :=
  andThen (startPacket _ a s) fun _ hstart => sealPacket (startPacket_inv h hstart)

theorem receiveReply (c : Command) (a : Word) (p : List Byte) (x : Half) (s : State) :
    Accepted (receiveReply c a p x s) := by
  unfold Machine.receiveReply receiveBytes
  exact andThen ⟨_, clearReply_eq_received s⟩ fun u _ => pushAll _ u

/-- R183: each instruction in a state of the invariants. -/
theorem exec (i : Instr) (h : Inv s) : Accepted (exec i s) := by
  cases i with
  | bcdDec n v => exact execBcdDec n v s
  | bcdDec8 _ | crcClr | crcUpd _ | crcGet | dfrClr => exact ⟨_, rfl⟩
  | crcFrame _ | pktCheck _ | getAddr _ | getCmd _ | getCrc _ | getB _ _ | getH _ _ | getT _ _ | getW _ _ | getDt _ _ =>
    exact guarded ..
  | lenResolve c => exact execLenResolve c s
  | bufRd b i => exact execBufRd b i s
  | frmHdr c a => exact startPacket c a s
  | frmPay x => exact execFrmPay x s
  | frmSeal => exact sealPacket h
  | dfrPush x => exact pushReply x s
  | frameReqReadTime a | frameReqReadPower a | frameReqReadCounters a | frameReqReadBattery a | frameReqReadTariffs a
  | frameReqReadTariff a | frameReqReadUip a | frameReqReadLineParams a => exact buildRequest h _ a
  | frameRepReadTime a p x | frameRepReadPower a p x | frameRepReadCounters a p x | frameRepReadBattery a p x
  | frameRepReadTariffs a p x | frameRepReadTariff a p x | frameRepReadUip a p x | frameRepReadLineParams a p x =>
    simp only [Machine.exec]
    exact receiveReply _ a p x s

end Accepted

/-- Settles O15, by instruction; `Inv` is needed for `FRM.SEAL` and the request frames, which end in it. -/
theorem everyInstructionIsAccepted : Obligations.EveryInstructionIsAccepted := by
  unfold Obligations.EveryInstructionIsAccepted
  exact fun i s h => Accepted.exec i h

end Sys2Proof.Machine
end

section
/-! PROOFS. The causes of each fault (spec/60_exceptions.md R185 to R196), and the order of the checks of R140 and R195. -/

namespace Sys2Proof.Machine

section Checks

variable {s : State} {b : Buf}

/-- R195: the field's own check comes after the packet's. -/
theorem guarded_checkWindow (s : State) (b : Buf) (k w : Nat) (body : Result) :
    guarded (checkWindow s b k w) s body =
      guarded (checkPacket s b) s
        (guarded (if payloadBase + k + w > s.len b - 2 then some .fieldRange else none) s body) := by
  unfold checkWindow
  cases checkPacket s b <;> rfl

/-- R140: the operations that begin with the check of a packet. -/
def packetOps (b : Buf) (k : Byte) : List Instr :=
  [.pktCheck b, .crcFrame b, .getAddr b, .getCmd b, .getCrc b, .getB b k, .getH b k, .getT b k, .getW b k, .getDt b k]

theorem exec_packetOp_eq_guarded (s : State) (b : Buf) (k : Byte) :
    ∀ i ∈ packetOps b k, ∃ body, exec i s = guarded (checkPacket s b) s body := by
  simp only [packetOps, List.forall_mem_cons]
  exact ⟨⟨_, rfl⟩, ⟨_, rfl⟩, ⟨_, rfl⟩, ⟨_, rfl⟩, ⟨_, rfl⟩, ⟨_, guarded_checkWindow ..⟩, ⟨_, guarded_checkWindow ..⟩,
    ⟨_, guarded_checkWindow ..⟩, ⟨_, guarded_checkWindow ..⟩, ⟨_, guarded_checkWindow ..⟩, nofun⟩

/-- R183: what the check of the packet finds is all that the operation reports. -/
theorem exec_packetOp_of_found {c : ErrCode} (h : checkPacket s b = some c) {k : Byte} {i : Instr}
    (hi : i ∈ packetOps b k) : exec i s = .next (s.setErr c) := by
  obtain ⟨body, hexec⟩ := exec_packetOp_eq_guarded s b k i hi
  rw [hexec, h, guarded_some]

/-- R140: the payload accessors, each with the width of its field. -/
def windowOps (b : Buf) (k : Byte) : List (Instr × Nat) :=
  [(.getB b k, 1), (.getH b k, 2), (.getT b k, 3), (.getW b k, 4), (.getDt b k, 7)]

theorem exec_windowOp_eq_guarded (s : State) (b : Buf) (k : Byte) :
    ∀ p ∈ windowOps b k, ∃ body, exec p.1 s = guarded (checkWindow s b k.toNat p.2) s body := by
  simp only [windowOps, List.forall_mem_cons]
  exact ⟨⟨_, rfl⟩, ⟨_, rfl⟩, ⟨_, rfl⟩, ⟨_, rfl⟩, ⟨_, rfl⟩, nofun⟩

/-- R194: an unsealed request. -/
theorem checkPacket_of_unsealed (h : s.isSealed = false) : checkPacket s .tx = some .frameState :=
  checkPacket_eq_some.mpr (.inl ⟨rfl, h, rfl⟩)

/-- R188: a packet of fewer than seven bytes, a request being sealed. -/
theorem checkPacket_of_short (hsealed : b = .tx → s.isSealed = true) (hshort : s.len b < 7) :
    checkPacket s b = some .frameTooShort := by
  have hstate : ¬(b = .tx ∧ s.isSealed = false) := fun ⟨hb, hopen⟩ => Bool.false_ne_true (hopen.symm.trans (hsealed hb))
  exact checkPacket_eq_some.mpr (.inr ⟨hstate, hshort, rfl⟩)

/-- R190: a field that ends behind the payload of a readable packet. -/
theorem checkWindow_of_outside {k w : Nat} (h : Readable s b) (houtside : s.len b - 2 < 5 + k + w) :
    checkWindow s b k w = some .fieldRange :=
  checkWindow_eq_some.mpr (.inr ⟨checkPacket_eq_none.mpr h, houtside, rfl⟩)

end Checks

/-- Settles O46: each operation is guarded by the packet's check, and behind it a payload accessor by its field's. -/
theorem packetChecksComeInOrder : Obligations.PacketChecksComeInOrder := by
  unfold Obligations.PacketChecksComeInOrder
  refine ⟨rfl, rfl, fun b k s => ⟨fun i hi => ⟨?_, fun hsealed hshort => ?_⟩, fun p hp hreadable houtside => ?_⟩⟩
  · rintro rfl hopen
    exact exec_packetOp_of_found (checkPacket_of_unsealed hopen) hi
  · exact exec_packetOp_of_found (checkPacket_of_short hsealed hshort) hi
  · obtain ⟨body, hexec⟩ := exec_windowOp_eq_guarded s b k p hp
    rw [hexec, checkWindow_of_outside hreadable houtside]
    rfl

/-- Settles O40: there is no open packet to go on with, or no sealed one to read. -/
theorem frameStateFaults : Obligations.FrameStateFaults := by
  unfold Obligations.FrameStateFaults
  refine ⟨rfl, fun x k s => ⟨fun h => ?_, fun hopen i hi => exec_packetOp_of_found (checkPacket_of_unsealed hopen) hi⟩⟩
  have hnone : noOpenPacket s = true := by simpa [noOpenPacket, or_comm] using h
  exact ⟨(execFrmPay_eq x s).trans (if_pos hnone), (sealPacket_eq s).trans (if_pos hnone)⟩

/-- Settles O43: the request keeps two bytes for its trailer, the reply fills its buffer. -/
theorem frameOverflowDropsTheByte : Obligations.FrameOverflowDropsTheByte := by
  unfold Obligations.FrameOverflowDropsTheByte
  exact ⟨rfl, fun x s => ⟨fun hopen hfull => exec_frmPay_of_full hopen hfull x,
    fun hfull => (pushReply_eq x s).trans (if_pos hfull)⟩⟩

/-- Settles O45: `BUF.RD` checks its index against the length and nothing else. -/
theorem bufRdResult : Obligations.BufRdResult := by
  unfold Obligations.BufRdResult
  exact ⟨rfl, fun b i s => ⟨fun hbelow => exists_returned (exec_bufRd_of_lt hbelow) (zeroExtended_byte_toNat _),
    fun habove => if_pos habove⟩⟩

/-- Settles O36: the ROM has no row for the code. -/
theorem lenResolveUnknownCodeFaults : Obligations.LenResolveUnknownCodeFaults := by
  unfold Obligations.LenResolveUnknownCodeFaults
  refine ⟨rfl, fun s c hc => ?_⟩
  have hunknown : commandOf s.cfg c = none :=
    List.find?_eq_none.mpr fun k hk hcode => hc (List.mem_map.mpr ⟨k, hk, beq_iff_eq.mp hcode⟩)
  rw [exec, execLenResolve, hunknown]
  rfl

/-- Settles O23: the count is checked before any digit is read. -/
theorem bcdDecAboveEightFaults : Obligations.BcdDecAboveEightFaults := by
  unfold Obligations.BcdDecAboveEightFaults
  exact ⟨rfl, fun n v s hn => exec_bcdDec_of_gt hn v s⟩

/-- R65: a word that no row selects does not decode. -/
theorem decodeWord_eq_error {w : OpWord} (h : ∀ row ∈ opRows, ¬row.selects w) : ∃ why, decodeWord w = .error why := by
  cases hdecode : decodeWord w with
  | error why => exact ⟨why, rfl⟩
  | ok i =>
    obtain ⟨row, hrow, hselects⟩ := (wordDecodesIffARowSelectsIt w).mp ⟨i, hdecode⟩
    exact absurd hselects (h row hrow)

/-- Settles O7: the word is served, decodes to nothing and is reported. -/
theorem illegalWordSetsErrOnly : Obligations.IllegalWordSetsErrOnly := by
  unfold Obligations.IllegalWordSetsErrOnly
  refine ⟨rfl, fun s w rest hport hnone => ?_⟩
  obtain ⟨why, hdecode⟩ := decodeWord_eq_error hnone
  rw [step_cons hport, present, hdecode]
  rfl

/-- Settles O8: the port is empty, so there is no event to serve. -/
theorem idlePortChangesNothing : Obligations.IdlePortChangesNothing := by
  unfold Obligations.IdlePortChangesNothing
  exact fun s => step_idle

end Sys2Proof.Machine
end

section
/-! PROOFS. How the host's transaction ends (spec/70_reset_and_hazards.md R215 to R222): with nothing written, or with the
request written and, if it ends validated, exactly the reply that its command resolves to. -/

namespace Sys2Proof.Machine

section Endings

variable {ch : Channel} {n : Nat} {c : Byte} {cmd : Command} {a : Word} {s t : State} {o : TxOutcome} {rep : TxReport}

/-- R219: the host pushes no byte beyond those it asked for, so what it collects goes behind the bytes it has. -/
theorem collectReply_received {bs : List Byte} {rs : List ReadResult} {r : Option TxOutcome} (hn : n ≤ frameMax)
    (hbs : bs.length ≤ n) (h : collectReply n rs (s.received bs) = .next (r, t)) :
    ∃ bs', t = s.received bs' ∧ bs'.length ≤ n := by
  induction rs generalizing bs with
  | nil =>
    cases h
    exact ⟨bs, rfl, hbs⟩
  | cons read rs ih =>
    by_cases hdone : n ≤ (s.received bs).len .rx
    · cases (if_pos hdone).symm.trans h
      exact ⟨bs, rfl, hbs⟩
    · have h := (if_neg hdone).symm.trans h
      match read with
      | .data [] | .timeout | .endOfStream =>
        cases h
        exact ⟨bs, rfl, hbs⟩
      | .data (x :: xs) =>
        have hfit : (bs ++ (x :: xs).take (n - bs.length)).length ≤ n := by
          rw [List.length_append, List.length_take]
          omega
        obtain ⟨u, hpush, hrest⟩ := andThen_eq_next.mp h
        rw [received_len s (hbs.trans hn), pushAll_received s (hfit.trans hn)] at hpush
        cases hpush
        exact ih hfit hrest

/-- The block after a write was attempted in `s` (R218 to R222): the request still stands in `TXB`, and a validated reply
is no longer than asked for and carries its trailer. -/
structure WrittenEnd (n : Nat) (s : State) (o : TxOutcome) (t : State) : Prop where
  attempted : o ≠ .channelUnavailable ∧ o ≠ .unsupportedCommand
  cfg : t.cfg = s.cfg
  request : t.tx = s.tx
  checked : o = .validated → t.len .rx ≤ n ∧ packetTrailer t .rx = recomputedTrailer t .rx

/-- An exit before the check leaves nothing to say of the reply. -/
theorem writtenEnd_of_unchecked (ho : o ∈ [TxOutcome.writeFailed, .replyTimeout, .channelClosed]) (hcfg : t.cfg = s.cfg)
    (htx : t.tx = s.tx) : WrittenEnd n s o t where
  attempted := by constructor <;> rintro rfl <;> simp at ho
  cfg := hcfg
  request := htx
  checked := by rintro rfl; simp at ho

/-- R126: a packet for which `PKT.CHECK` gives 1 carries the trailer recomputed from its bytes. -/
theorem packetTrailer_of_pktCheck {b : Buf} (hreadable : Readable s b) (h : exec (.pktCheck b) s = .next t)
    (hr : t.r = 1) : packetTrailer t b = recomputedTrailer t b := by
  rw [exec_pktCheck_of_readable hreadable] at h
  cases h
  have hvalid : packetValid s b = true := by
    by_contra hcorrupt
    simp [hcorrupt] at hr
  have hmatches := (packetValid_iff.mp hvalid).symm
  rw [← packetTrailer_setValid b (packetValid s b), ← recomputedTrailer_setValid b (packetValid s b)] at hmatches
  exact (IgnoresResult.packetTrailer b _ _ _).trans (hmatches.trans (IgnoresResult.recomputedTrailer b _ _ _).symm)

/-- R222: the check ends validated only when the trailer of the reply matches. -/
theorem checkReply_writtenEnd {bytes : List Byte} (hlow : 7 ≤ s.len .rx) (hhigh : s.len .rx ≤ n)
    (h : checkReply ch bytes s = .next rep) : ∃ o t, rep = endWritten o ch bytes t ∧ WrittenEnd n s o t := by
  obtain ⟨t, hcheck, hend⟩ := andThen_eq_next.mp h
  cases hend
  have hreadable : Readable s .rx := ⟨nofun, hlow⟩
  obtain ⟨hcfg, htx, hlen⟩ : t.cfg = s.cfg ∧ t.tx = s.tx ∧ t.len .rx = s.len .rx := by
    rw [exec_pktCheck_of_readable hreadable] at hcheck
    cases hcheck
    exact ⟨rfl, rfl, rfl⟩
  refine ⟨_, t, rfl, ?_, hcfg, htx, fun hvalidated => ⟨hlen.trans_le hhigh, ?_⟩⟩
  · split <;> exact ⟨nofun, nofun⟩
  · exact packetTrailer_of_pktCheck hreadable hcheck (by simpa using hvalidated)

/-- R218 to R222: whatever follows the write, the bytes written are those of the request. -/
theorem writeAndRead_writtenEnd {bytes : List Byte} (hbytes : readBytes s .tx 0 (s.len .tx) = bytes) (hlow : 7 ≤ n)
    (hhigh : n ≤ frameMax) (h : writeAndRead ch n s = .next rep) :
    ∃ o t, rep = endWritten o ch bytes t ∧ WrittenEnd n s o t := by
  obtain ⟨v, e, hsend⟩ := sendBytes_eq s
  rw [writeAndRead, hsend, hbytes, andThen_next] at h
  by_cases hwrite : ch.writeSucceeds = false
  · rw [if_pos hwrite] at h
    cases h
    exact ⟨_, _, rfl, writtenEnd_of_unchecked (by simp) rfl rfl⟩
  · rw [if_neg hwrite, exec, execDfrClr, clearReply_eq_received, andThen_next] at h
    obtain ⟨⟨r, u⟩, hcollect, h⟩ := andThen_eq_next.mp h
    obtain ⟨bs, rfl, hbs⟩ := collectReply_received (bs := []) hhigh (Nat.zero_le n) hcollect
    rcases collectReply_cases hcollect with ⟨rfl, hlen⟩ | rfl | rfl
    · have hmost := (received_len ((s.setR v).setErr e) (hbs.trans hhigh)).trans_le hbs
      obtain ⟨o, t, hrep, hend⟩ := checkReply_writtenEnd (hlow.trans hlen) hmost h
      exact ⟨o, t, hrep, { hend with }⟩
    · cases h
      exact ⟨_, _, rfl, writtenEnd_of_unchecked (by simp) rfl rfl⟩
    · cases h
      exact ⟨_, _, rfl, writtenEnd_of_unchecked (by simp) rfl rfl⟩

/-- How a transaction ends (R215 to R222): before the write on a detached channel or an unsupported command, else after the
write of the request that `BUILD` makes. -/
inductive TransactionEnds (ch : Channel) (c : Byte) (a : Word) (s : State) : TxReport → Prop where
  | detached (t : State) (hattached : ch.attached = false) :
    TransactionEnds ch c a s (endUnwritten .channelUnavailable ch t)
  | unsupported (t : State) (hattached : ch.attached ≠ false) :
    TransactionEnds ch c a s (endUnwritten .unsupportedCommand ch t)
  | written (cmd : Command) (o : TxOutcome) (t : State) (hattached : ch.attached ≠ false)
    (hcmd : commandOf s.cfg c = some cmd)
    (hend : WrittenEnd (replyPayload cmd + 7) (s.sealed (builtFrame s c a [])) o t) :
    TransactionEnds ch c a s (endWritten o ch (builtFrame s c a []) t)

/-- R111, R186: `LEN.RESOLVE` of a byte that is no command's code. -/
theorem exec_lenResolve_of_unknown (h : commandOf s.cfg c = none) :
    exec (.lenResolve c) s = .next (s.setErr .unsupportedCommand) := by
  rw [exec, execLenResolve, h]
  rfl

/-- R215: every transaction that completes ends in one of these ways. -/
theorem transactionEnds_of_executeTransaction (h : executeTransaction ch c a s = .next rep) :
    TransactionEnds ch c a s rep := by
  have hrequest : runPseudo (.request c a) s = .next (s.sealed (builtFrame s c a [])) := runPseudo_build s c a []
  rw [executeTransaction, hrequest, andThen_next] at h
  by_cases hattached : ch.attached = false
  · rw [if_pos hattached] at h
    cases h
    exact .detached _ hattached
  · rw [if_neg hattached] at h
    cases hcmd : commandOf s.cfg c with
    | none =>
      have hresolve := exec_lenResolve_of_unknown (s := s.sealed (builtFrame s c a [])) hcmd
      rw [hresolve, andThen_next, if_pos (by simp)] at h
      cases h
      exact .unsupported _ hattached
    | some cmd =>
      have hpayload := replyPayload_le cmd
      have hvalue : (BitVec.ofNat 32 (replyPayload cmd)).toNat = replyPayload cmd :=
        Nat.mod_eq_of_lt (hpayload.trans_lt (by decide))
      have hbytes := readBytes_sealed s (builtFrame_length_le s c a [])
      have hresolve := exec_lenResolve_of_commandOf (s := s.sealed (builtFrame s c a [])) hcmd
      rw [hresolve, andThen_next, if_neg (by simp), State.setErr_r, State.setR_r, hvalue] at h
      obtain ⟨o, t, rfl, hend⟩ := writeAndRead_writtenEnd (by simpa [readBytes] using hbytes) (Nat.le_add_left 7 _)
        (Nat.add_le_add_right hpayload 7) h
      exact .written cmd o t hattached hcmd { hend with }

/-- R52, R68: the request that `BUILD` makes for the code of a command is that command's request frame. -/
theorem builtFrame_code (s : State) (cmd : Command) (a : Word) :
    builtFrame s (s.cfg.code cmd) a [] = requestBytes s.cfg s.variant cmd a := by
  simp [builtFrame, builtBody, frameBytes, requestBytes, State.crcOf]

/-- The request that stands in `TXB` reads back as its seven bytes. -/
theorem WrittenEnd.readBytes_request (h : WrittenEnd n (s.sealed (builtFrame s c a [])) o t) :
    readBytes t .tx 0 7 = builtFrame s c a [] := by
  have hread := readBytes_sealed s (builtFrame_length_le s c a [])
  rw [sealed_len s (builtFrame_length_le s c a []), builtFrame_length] at hread
  rw [← hread]
  exact readBytes_congr fun j _ _ => by rw [readByte, readByte, State.buf_tx, State.buf_tx, h.request]

end Endings

/-- Settles O59: each way a transaction ends says whether it wrote, and the settling delay is owed with the write. -/
theorem settlingDelayIsOwedAfterAWrite : Obligations.SettlingDelayIsOwedAfterAWrite := by
  unfold Obligations.SettlingDelayIsOwedAfterAWrite
  intro ch c a s rep h
  cases transactionEnds_of_executeTransaction h with
  | detached t hattached => simp [endUnwritten, hattached]
  | unsupported t hattached => simp [endUnwritten, hattached]
  | written cmd o t hattached hcmd hend =>
    obtain ⟨havailable, hsupported⟩ := hend.attempted
    have hcfg : t.cfg = s.cfg := hend.cfg
    simp [endWritten, hattached, havailable, hsupported, hcfg]

/-- Settles O60: only a transaction that wrote ends validated, and then the reply has neither fewer nor more bytes than
asked for. -/
theorem validatedTransactionHoldsAValidReply : Obligations.ValidatedTransactionHoldsAValidReply := by
  unfold Obligations.ValidatedTransactionHoldsAValidReply
  intro ch c a s rep h hvalidated
  cases transactionEnds_of_executeTransaction h with
  | detached t hattached => cases hvalidated
  | unsupported t hattached => cases hvalidated
  | written cmd o t hattached hcmd hend =>
    obtain ⟨hvalid, hleast⟩ := executeTransaction_validated hcmd h hvalidated
    obtain ⟨hmost, htrailer⟩ := hend.checked hvalidated
    have hcode := code_of_commandOf hcmd
    have hrequest : builtFrame s c a [] = requestBytes s.cfg s.variant cmd a := hcode ▸ builtFrame_code s cmd a
    exact ⟨cmd, hcmd, hcode, hmost.antisymm hleast, hvalid, htrailer, congrArg some hrequest,
      congrArg some hend.readBytes_request.symm⟩

end Sys2Proof.Machine
end
